-- ==== Sys2Proof/Word.lean ====
section
/-! DEFINITION. The plainest arithmetic of the values the engine computes with (00_scope.md R6 to R8).

A value is a `Nat`: "Every value in this spec is a natural number" (R6). The widths of registers and ports are
`Config.wmax` and `Config.wb`, open parameters, so a write cuts its value to its register's width (Machine/Ops.lean).
DESIGN CHOICE, log 2. -/

namespace Sys2Proof

/-- What `n` bits hold of `v`: its `n` low bits. -/
def trunc (n : Nat) (v : Nat) : Nat := v % 2 ^ n

/-- `bitlen(v)`, the number of binary digits of `v`: `bitlen(0) = 0`, `bitlen(16) = 5` (00_scope.md R8). -/
def bitlen (v : Nat) : Nat := if v = 0 then 0 else Nat.log2 v + 1

end Sys2Proof
end

