-- ==== Sys2Proof/Config.lean ====
section
/-! DEFINITION. What an instance of the engine fixes (00_scope.md R5), and the one free value. -/

namespace Sys2Proof

/-- The parameters of one instance (00_scope.md R5). The spec leaves `WMAX` OPEN. -/
structure Config where
  /-- `WMAX`: the largest register width the instance supports, and the width in bits of `SEED`, `TAPS`, `REG`,
  `COUNT` and their ports. -/
  wmax : Nat
  deriving DecidableEq, Repr

/-- `WB = bitlen(WMAX)`, the width in bits of `WIDTH` and of `width_in` (00_scope.md R5, 30_encoding.md R72). -/
def Config.wb (c : Config) : Nat := bitlen c.wmax

/-- The spec's one constraint on the parameter: `WMAX >= 2` (00_scope.md R5). -/
abbrev Config.ok (c : Config) : Prop := 2 ≤ c.wmax

/-- The instance `State.reset` describes: `WMAX = 16`, the value the spec's test vectors use.
DESIGN CHOICE, unsafe for a claim about `State.reset` alone: the spec leaves `WMAX` open (log 1). -/
def Config.chosen : Config := ⟨16⟩

/-- FREE VALUE (log 6): what a STEP computes from `REG` and `TAPS` while `WIDTH` is 0. 41_transition_step.md R133
gives `next` "For a register width `w >= 1`" only. It has no body, so no proof can see a value of it. -/
opaque Config.nextAtWidthZero : Nat → Nat → Nat

end Sys2Proof
end

