-- ==== Sys2Proof/Syntax.lean ====
section
/-! DEFINITION. The four operations of spec/opcode_table.json, and what the host drives in one cycle. -/

namespace Sys2Proof

/-- The operation of one cycle (00_scope.md R11), one constructor per row of spec/opcode_table.json. "Operation" plays
the part "instruction" plays in an ISA manual. -/
inductive Instr where
  /-- RESET (70_reset_and_hazards.md R220). -/
  | reset
  /-- STEP (41_transition_step.md R135); its operands are the registers. -/
  | step
  /-- START (40_command_start.md R102), with the values of `seed_in`, `taps_in` (a mask, 30_encoding.md R73) and
  `width_in`. -/
  | start (seed taps width : Nat)
  /-- NOP (40_command_start.md R100). -/
  | nop
  deriving DecidableEq, Repr

/-- The input ports of one cycle (30_encoding.md R70). A port has only its own wires: where the engine reads one it
takes the low bits (`fetchWord` in Decode.lean). -/
structure Inputs where
  rst     : Bool
  start   : Bool
  seedIn  : Nat
  tapsIn  : Nat
  widthIn : Nat
  deriving DecidableEq, Repr

end Sys2Proof
end

