-- ==== Sys2Proof/WellFormed.lean ====
section
/-! DEFINITION. Which terms of `Instr` an instance can be given: operands that their ports can carry. -/

namespace Sys2Proof

/-- The operands have a port-level image (30_encoding.md R71 to R73, R85): `seed_in` and `taps_in` have `WMAX` wires,
`width_in` has `WB`. Operands that START refuses are well formed: every value a port can carry has an outcome
(30_encoding.md R80, R81). -/
def Instr.wellFormed (c : Config) : Instr → Bool
  | .reset => true
  | .step => true
  | .start seed taps width =>
    decide (seed < 2 ^ c.wmax) && decide (taps < 2 ^ c.wmax) && decide (width < 2 ^ c.wb)
  | .nop => true

end Sys2Proof
end

