-- ==== Sys2Proof/Decode.lean ====
section
/-! DEFINITION. Operation selection (30_encoding.md R78), the command bundle (R74), the word the model fetches, the
decoder, and after it the encoder. -/

namespace Sys2Proof

/-- `bits[hi:lo]` of `w`, given its lowest bit index and its length (00_scope.md R8). -/
def field (w lo len : Nat) : Nat := trunc len (w >>> lo)

/-! ## The selector word -/

/-- An operation without its operands. -/
inductive Op where
  | reset
  | step
  | start
  | nop
  deriving DecidableEq, Repr

/-- One row of the table of 30_encoding.md R78. -/
structure OpRow where
  op   : Op
  mask : Nat
  bits : Nat
  deriving DecidableEq, Repr

/-- The table of 30_encoding.md R78 (and of spec/opcode_table.json): operation, mask, match. -/
def opTable : List OpRow :=
  [⟨.reset, 0b100, 0b100⟩, ⟨.step, 0b110, 0b010⟩, ⟨.start, 0b111, 0b001⟩, ⟨.nop, 0b111, 0b000⟩]

/-- A selector word matches a row when it agrees with `bits` under `mask`. -/
def OpRow.selects (r : OpRow) (sel : Nat) : Bool := decide (sel &&& r.mask = r.bits)

/-- The selector word `SEL = {rst, run, start}`: `SEL[2] = rst`, `SEL[1] = run`, `SEL[0] = start`
(30_encoding.md R78). -/
def selWord (rst run start : Bool) : Nat := 4 * rst.toNat + 2 * run.toNat + start.toNat

/-- The selection of 30_encoding.md R78 as its chain of tests, the first line that applies: `rst` first, then
`PHASE = RUN`, then `start`. -/
def selectOp (sel : Nat) : Op :=
  if sel.testBit 2 then .reset
  else if sel.testBit 1 then .step
  else if sel.testBit 0 then .start
  else .nop

/-! ## The command bundle and the fetched word -/

/-- The operand fields of the command bundle: `seed` at `[WMAX-1:0]`, `taps` at `[2*WMAX-1:WMAX]`, `width` at
`[2*WMAX+WB-1:2*WMAX]` (30_encoding.md R74). Each field holds what its port's wires carry. -/
def operandWord (c : Config) (seed taps width : Nat) : Nat :=
  trunc c.wmax seed + 2 ^ c.wmax * (trunc c.wmax taps + 2 ^ c.wmax * trunc c.wb width)

/-- The number of bits of the operand fields. -/
def operandBits (c : Config) : Nat := 2 * c.wmax + c.wb

/-- The command bundle `CB` of the ports: the operand fields with `start` above them (30_encoding.md R74). -/
def bundleOf (c : Config) (x : Inputs) : Nat :=
  operandWord c x.seedIn x.tapsIn x.widthIn + 2 ^ operandBits c * x.start.toNat

/-- The ports a command bundle stands for; `rst` is not part of it (30_encoding.md R74). -/
def inputsOfBundle (c : Config) (rst : Bool) (cb : Nat) : Inputs :=
  { rst, start := cb.testBit (operandBits c), seedIn := field cb 0 c.wmax, tapsIn := field cb c.wmax c.wmax,
    widthIn := field cb (2 * c.wmax) c.wb }

/-- The word the model fetches in a cycle: `SEL` in bits 2 to 0 and the operand fields of `CB` from bit 3 on. `CB`'s
own `start` bit and `SEL[0]` are one wire, so it stands once. DESIGN CHOICE of numbering only, log 5. -/
def fetchWord (c : Config) (run : Bool) (x : Inputs) : Nat :=
  selWord x.rst run x.start + 8 * operandWord c x.seedIn x.tapsIn x.widthIn

/-- The number of bits of a fetched word. -/
def fetchBits (c : Config) : Nat := 3 + operandBits c

/-- The ports that give a fetched word; with `fetchRun` the inverse of `fetchWord`. -/
def inputsOfFetch (c : Config) (w : Nat) : Inputs :=
  { rst := w.testBit 2, start := w.testBit 0, seedIn := field w 3 c.wmax, tapsIn := field w (3 + c.wmax) c.wmax,
    widthIn := field w (3 + 2 * c.wmax) c.wb }

/-- `SEL[1]` of a fetched word: whether it is fetched while `PHASE = RUN`. -/
def fetchRun (w : Nat) : Bool := w.testBit 1

/-! ## The decoder -/

/-- The operation a fetched word stands for. It is total: "every value of `SEL` selects exactly one operation"
(30_encoding.md R78), and START is the only one with operands; in every other cycle the operand fields are ignored
(R81). -/
def decodeWord (c : Config) (w : Nat) : Instr :=
  match selectOp (field w 0 3) with
  | .reset => .reset
  | .step => .step
  | .start => .start (field w 3 c.wmax) (field w (3 + c.wmax) c.wmax) (field w (3 + 2 * c.wmax) c.wb)
  | .nop => .nop

/-- Why a number is no word of the instance. -/
inductive DecodeError where
  /-- A bit is set where the instance has no wire. -/
  | bitBeyondWord
  deriving DecidableEq, Repr

/-- What decoding a number gives. -/
inductive Decoded where
  | instr (i : Instr)
  | rejected (e : DecodeError)
  deriving DecidableEq, Repr

/-- The decoder on any number: one that fits in the word is decoded, any other is rejected by name. -/
def decode (c : Config) (w : Nat) : Decoded :=
  if w < 2 ^ fetchBits c then .instr (decodeWord c w) else .rejected .bitBeyondWord

/-- The decoder on the bits of a row of spec/opcode_table.json, for the instance of `State.reset`. Bit `i` of `w` is
bit `i` of the fetched word: the table numbers `SEL[0]` as bit 0, and bits above `nbits` are 0. -/
def decodeTableWord (nbits w : Nat) : Option Instr :=
  match decode Config.chosen (trunc nbits w) with
  | .instr i => some i
  | .rejected _ => none

/-! ## The encoder -/

/-- The word of an operation, written from the patterns of spec/opcode_table.json and the fields of 30_encoding.md
R74. The bits a row ignores are 0. -/
def encode (c : Config) : Instr → Nat
  | .reset => 0b100
  | .step => 0b010
  | .start seed taps width => 0b001 + 8 * operandWord c seed taps width
  | .nop => 0b000

end Sys2Proof
end

