-- ==== Sys2Proof/Machine/State.lean ====
section
/-! DEFINITION. The state of one engine (10_state.md R20) as plain data, its reset values (R38), and the outcomes. -/

namespace Sys2Proof.Machine

/-- `PHASE` (10_state.md R22). -/
inductive Phase where
  /-- Reset has happened and no START has been accepted since. -/
  | idle
  /-- A run is in progress: each cycle performs one STEP. -/
  | run
  /-- The last run closed: `COUNT` is its cycle length, `TRAJ` its trajectory. -/
  | done
  /-- The last START was refused or the last run hit the ceiling: `CAUSE` says which. -/
  | err
  deriving DecidableEq, Repr

/-- `CAUSE` (10_state.md R23). Codes 5 to 7 are never produced and have no constructor (93_implementation_defined.md
U10; log 13). -/
inductive Cause where
  | none
  | invalidSeed
  | invalidWidth
  | invalidTap
  | noClosure
  deriving DecidableEq, Repr

/-- What `raise` can be given: the complete list of exceptions (60_exceptions.md R190). -/
inductive ErrorCause where
  | invalidSeed
  | invalidWidth
  | invalidTap
  | noClosure
  deriving DecidableEq, Repr

/-- One engine: the tuple of 10_state.md R20, and two fields of the model's own, which are not the spec's state:
`cfg`, the instance's parameters (log 1), and `inputs`, what the host will drive (log 3). -/
structure State where
  /-- The instance's parameters; no operation writes them. The model's own field, log 1. -/
  cfg    : Config
  /-- What the host drives on the input ports in the coming cycles, the next cycle first. The model's own field, log 3. -/
  inputs : List Inputs
  /-- `PHASE` (R22). -/
  phase  : Phase
  /-- `CAUSE` (R23). -/
  cause  : Cause
  /-- `WIDTH`, `WB` bits (R24). -/
  width  : Nat
  /-- `SEED`, `WMAX` bits (R25). -/
  seed   : Nat
  /-- `TAPS`, `WMAX` bits, a mask (R26). -/
  taps   : Nat
  /-- `REG`, `WMAX` bits (R27). -/
  reg    : Nat
  /-- `COUNT`, `WMAX` bits (R28). -/
  count  : Nat
  /-- `EMIT`, 1 bit (R29). -/
  emit   : Bool
  /-- `TRAJ` (R31), the engine's one address space (20_memory.md R50): element `k` is the register state after `k`
  transitions (R51). A list in index order is its canonical form: indices are written once each, in increasing order,
  with no gaps. Its operations are those of `Memory` in Machine/Ops.lean. Log 9. -/
  traj   : List Nat
  deriving DecidableEq, Repr

/-- The output ports of 30_encoding.md R70. -/
structure OutPorts where
  phase    : Nat
  cause    : Nat
  ready    : Bool
  done     : Bool
  err      : Bool
  count    : Nat
  outValid : Bool
  outState : Nat
  outLast  : Bool
  deriving DecidableEq, Repr

/-- The reasons a step stops with a fault: there are none. The engine's errors are the entries into `PHASE = ERR` of
60_exceptions.md R196, which are next states; "No fatal/unrecoverable states exist" (R199), and no input has undefined
behaviour (30_encoding.md R81). Log 11. -/
inductive Fault where
  deriving DecidableEq, Repr

/-- The reasons an operation has no meaning in the model. -/
inductive Refusal where
  /-- The operation of that mnemonic has no meaning yet. Raised by an arm of `exec` only, and at present by none. Safe:
  nothing can be proved of what is refused. -/
  | notModelled (mnemonic : String)
  deriving DecidableEq, Repr

/-- The state right after RESET: the values of 10_state.md R38, on the instance `Config.chosen` (log 1), with nothing
asked by the host (log 3). It is the model's first state: "its initial state is the reset state"
(70_reset_and_hazards.md R222; log 10). -/
def State.reset : State :=
  { cfg := Config.chosen, inputs := [], phase := .idle, cause := .none, width := 0, seed := 0, taps := 0, reg := 0,
    count := 0, emit := false, traj := [] }

end Sys2Proof.Machine
end

