-- ==== Sys2Proof/Machine/Ops.lean ====
section
/-! DEFINITION. The shared operations on the state: the register writes, the trajectory, the input ports, and the one
error entry. -/

namespace Sys2Proof.Machine

/-! ## The trajectory -/

/-- Element `k` of a trajectory, for statements about it: "no operation reads `TRAJ`" (20_memory.md R50). An index not
yet written has no element. -/
def Memory.read (m : List Nat) (k : Nat) : Option Nat := m[k]?

/-- The write of 20_memory.md R51: it "always writes the index equal to the current length". -/
def Memory.append (m : List Nat) (v : Nat) : List Nat := m ++ [v]

/-- The form of a trajectory: every element is one whole state of `WMAX` bits (20_memory.md R51). Gaps and repeated
indices cannot be written down. -/
abbrev Memory.wf (c : Config) (m : List Nat) : Prop := ∀ v ∈ m, v < 2 ^ c.wmax

/-! ## Register writes -/

/-- `PHASE <- p`. -/
def setPhase (p : Phase) (s : State) : State := { s with phase := p }

/-- `CAUSE <- c`. -/
def setCause (c : Cause) (s : State) : State := { s with cause := c }

/-- `EMIT <- b`. -/
def setEmit (b : Bool) (s : State) : State := { s with emit := b }

/-- `WIDTH <- w ; SEED <- v ; TAPS <- m`, the latching of START's operands (40_command_start.md R102), each cut to its
register (10_state.md R24 to R26; log 2). -/
def latchOperands (w v m : Nat) (s : State) : State :=
  { s with width := trunc s.cfg.wb w, seed := trunc s.cfg.wmax v, taps := trunc s.cfg.wmax m }

/-- `REG <- v`, on `WMAX` bits (10_state.md R27; log 2). -/
def writeReg (v : Nat) (s : State) : State := { s with reg := trunc s.cfg.wmax v }

/-- `COUNT <- k`, on `WMAX` bits (10_state.md R28; log 2, log 7). -/
def writeCount (k : Nat) (s : State) : State := { s with count := trunc s.cfg.wmax k }

/-- `TrajAppend(v)`: `TRAJ <- TRAJ ++ [v]` and `EMIT <- 1` (00_scope.md R10). An element is `WMAX` bits (20_memory.md
R51). -/
def trajAppend (v : Nat) (s : State) : State :=
  { s with traj := Memory.append s.traj (trunc s.cfg.wmax v), emit := true }

/-- `TrajClear()`: `TRAJ <- []` (00_scope.md R10). -/
def trajClear (s : State) : State := { s with traj := [] }

/-! ## Error entry -/

/-- The value of `CAUSE` an exception leaves (60_exceptions.md R190). -/
def ErrorCause.toCause : ErrorCause → Cause
  | .invalidSeed => .invalidSeed
  | .invalidWidth => .invalidWidth
  | .invalidTap => .invalidTap
  | .noClosure => .noClosure

/-- What error entry clears for an input error: `REG <- 0 ; COUNT <- 0 ; EMIT <- 0 ; TRAJ <- []` (60_exceptions.md
R196). -/
def clearRun (s : State) : State := trajClear (setEmit false (writeCount 0 (writeReg 0 s)))

/-- Error entry, `raise e` (60_exceptions.md R196), the engine's one way of taking an exception: `PHASE <- ERR ;
CAUSE <- e`; for an input error the run's registers are cleared, for `NoClosure` they keep what STEP has just written.
Nothing is saved, and there is no return operation (R197): a START or a RESET leaves `ERR`. -/
def raise (e : ErrorCause) (s : State) : State :=
  match e with
  | .noClosure => setCause e.toCause (setPhase .err s)
  | .invalidSeed | .invalidWidth | .invalidTap => setCause e.toCause (setPhase .err (clearRun s))

/-! ## The input ports -/

/-- A cycle in which the host asks for nothing: `rst = 0`, `start = 0`. The operand ports have no effect in it
(30_encoding.md R81). -/
def Inputs.idle : Inputs := { rst := false, start := false, seedIn := 0, tapsIn := 0, widthIn := 0 }

/-- The input ports of this cycle. A host with nothing more to ask drives `rst = 0`, `start = 0`. DESIGN CHOICE,
unsafe for a claim about what a host with an exhausted list does (log 3). -/
def currentInputs (s : State) : Inputs := s.inputs.headD Inputs.idle

/-- Time passes to the next cycle's inputs. -/
def advanceInputs (s : State) : State := { s with inputs := s.inputs.tail }

end Sys2Proof.Machine
end

