-- ==== Sys2Proof/Machine/Operands.lean ====
section
/-! DEFINITION. The operand forms: the tap set as a mask (30_encoding.md R73) and the validation of START's operands
(40_command_start.md R103). -/

namespace Sys2Proof.Machine

/-- `decodeTaps(mask) = { i + 1 : 0 <= i < WMAX and mask[i] = 1 }` (30_encoding.md R73), in rising order. A set of
positions is a list without repeats; its order is unobservable (41_transition_step.md R134). -/
def decodeTaps (wmax : Nat) (mask : Nat) : List Nat :=
  ((List.range wmax).filter fun i => mask.testBit i).map (· + 1)

/-- `encodeTaps(T)`, the sum of `2^(p-1)` over `p` in `T` (30_encoding.md R73), for positions, which are at least 1.
DESIGN CHOICE, log 20: the number 0, which is no position, adds what position 1 would. -/
def encodeTaps : List Nat → Nat
  | [] => 0
  | p :: ps => 2 ^ (p - 1) + encodeTaps ps

/-- `validate(seed, taps, width)` (40_command_start.md R103): the first test that fails, in the order width, seed,
taps (60_exceptions.md R193), and `none` for `Ok`. It is total on natural numbers and finite sets, operands with no
port-level image included (30_encoding.md R85). -/
def validate (wmax seed : Nat) (taps : List Nat) (width : Nat) : Option ErrorCause :=
  if width < 1 ∨ wmax < width then some .invalidWidth
  else if seed = 0 ∨ 2 ^ width ≤ seed then some .invalidSeed
  else if ∃ t ∈ taps, t < 2 ∨ width < t then some .invalidTap
  else none

end Sys2Proof.Machine
end

