-- ==== Sys2Proof/Machine/Command.lean ====
section
/-! DEFINITION. The operations NOP and START (40_command_start.md). -/

namespace Sys2Proof.Machine

/-- NOP (40_command_start.md R100): `EMIT <- 0`; every other piece of state keeps its value. -/
def execNop (s : State) : Host.Outcome State Fault Refusal := .next (setEmit false s)

/-- START after its operands have been sampled (40_command_start.md R102): latch them and clear the trajectory in
every case; then either raise what `validate` finds, or begin a run whose first element is the seed. -/
def startWith (seed taps width : Nat) (s : State) : State :=
  let latched := trajClear (latchOperands width seed taps s)
  match validate s.cfg.wmax seed (decodeTaps s.cfg.wmax taps) width with
  | some e => raise e latched
  | none => trajAppend seed (writeCount 0 (writeReg seed (setCause .none (setPhase .run latched))))

/-- START (40_command_start.md R102). The operands are sampled from ports of `WMAX`, `WMAX` and `WB` wires (R101,
30_encoding.md R70), so a value no port can carry is cut to its wires (log 8). It does not look at the old state but
for the instance's parameters (R108). -/
def execStart (seed taps width : Nat) (s : State) : Host.Outcome State Fault Refusal :=
  .next (startWith (trunc s.cfg.wmax seed) (trunc s.cfg.wmax taps) (trunc s.cfg.wb width) s)

end Sys2Proof.Machine
end

