-- ==== Sys2Proof/Machine/Reset.lean ====
section
/-! DEFINITION. The operation RESET (70_reset_and_hazards.md). -/

namespace Sys2Proof.Machine

/-- RESET (70_reset_and_hazards.md R220): every piece of state takes its reset value of 10_state.md R38, in any phase.
The instance's parameters and what the host will drive are not the engine's state. -/
def execReset (s : State) : Host.Outcome State Fault Refusal :=
  .next (setPhase .idle (setCause .none (latchOperands 0 0 0 (clearRun s))))

end Sys2Proof.Machine
end

