-- ==== Sys2Proof/Machine/Transition.lean ====
section
/-! DEFINITION. The transition function and the operation STEP (41_transition_step.md). -/

namespace Sys2Proof.Machine

/-- `XOR{ f(t) : t in T }`, 0 for the empty set (00_scope.md R8). -/
def xorOver (taps : List Nat) (f : Nat → Nat) : Nat := taps.foldr (fun t a => f t ^^^ a) 0

/-- The accumulator `acc(r, T) = r ^ XOR{ r >> (t - 1) : t in T }` (41_transition_step.md R131), for positions, which
are at least 1. DESIGN CHOICE, log 20: the number 0, which is no position, contributes what position 1 would. -/
def acc (r : Nat) (taps : List Nat) : Nat := r ^^^ xorOver taps fun t => r >>> (t - 1)

/-- The feedback bit `fb(r, T) = (acc(r, T) >> 1) & 1` (41_transition_step.md R132): the accumulator's bit of weight 2,
as a 0 or 1 (90_conflicts.md C1, C2, C10). -/
def fb (r : Nat) (taps : List Nat) : Nat := (acc r taps >>> 1) &&& 1

/-- The successor state `next(r, T, w) = (r >> 1) | (fb(r, T) << (w - 1))` for a register width `w >= 1`
(41_transition_step.md R133). DESIGN CHOICE, log 20: at `w = 0`, where R133 gives no successor, this function takes the
value `(r >> 1) | fb(r, T)`. STEP does not use that value: its own at `WIDTH = 0` is free (`stepValue`, log 6). -/
def next (r : Nat) (taps : List Nat) (w : Nat) : Nat := (r >>> 1) ||| (fb r taps <<< (w - 1))

/-- The state a STEP produces from `REG`, `TAPS` and `WIDTH` (41_transition_step.md R135), on `REG`'s `WMAX` bits. At
`WIDTH = 0`, where R133 gives no successor and which no run reaches, it is a free value (log 6). -/
def stepValue (s : State) : Nat :=
  trunc s.cfg.wmax
    (if s.width = 0 then Config.nextAtWidthZero s.reg s.taps
     else next s.reg (decodeTaps s.cfg.wmax s.taps) s.width)

/-- How a STEP that produced `n` as its `k`-th transition ends (41_transition_step.md R136 to R138): closure is tested
first, then the ceiling `2^WIDTH - 1`, on the unwrapped `k`; otherwise `PHASE` stays. -/
def concludeStep (n k : Nat) (s : State) : State :=
  if n = s.seed then setPhase .done s
  else if k = 2 ^ s.width - 1 then raise .noClosure s
  else s

/-- STEP (41_transition_step.md R135): write the successor and the count, append, then compare. -/
def execStep (s : State) : Host.Outcome State Fault Refusal :=
  .next (concludeStep (stepValue s) (s.count + 1)
    (trajAppend (stepValue s) (writeCount (s.count + 1) (writeReg (stepValue s) s))))

end Sys2Proof.Machine
end

