-- ==== Sys2Proof/Machine/Dispatch.lean ====
section
/-! DEFINITION. One arm per operation of spec/opcode_table.json. -/

namespace Sys2Proof.Machine

def exec (i : Instr) (s : State) : Host.Outcome State Fault Refusal :=
  match i with
  | .reset => Sys2Proof.Machine.execReset s
  | .step => Sys2Proof.Machine.execStep s
  | .start seed taps width => Sys2Proof.Machine.execStart seed taps width s
  | .nop => Sys2Proof.Machine.execNop s

end Sys2Proof.Machine
end

