-- ==== Sys2Proof/Machine/Fetch.lean ====
section
/-! DEFINITION. What a cycle fetches, and how a word is placed where the next cycle fetches it. -/

namespace Sys2Proof.Machine

/-- The word of this cycle: the selector made of `rst`, `PHASE` (its value before the edge) and `start`
(30_encoding.md R78), and the operand ports. -/
def fetched (s : State) : Nat := fetchWord s.cfg (decide (s.phase = .run)) (currentInputs s)

/-- The phase in which a word with that `run` bit is fetched: `SEL[1] = 1` exactly when `PHASE = RUN`. A phase that
already fits is kept. -/
def phaseFor (run : Bool) (p : Phase) : Phase :=
  match run, p with
  | true, _ => .run
  | false, .run => .idle
  | false, .idle => .idle
  | false, .done => .done
  | false, .err => .err

/-- The state in which the next cycle fetches the word `w`: this cycle's ports carry its `rst`, `start` and operand
bits, and `PHASE` is `RUN` exactly when its `run` bit says so. Nothing else changes (log 4). -/
def placeWord (s : State) (w : Nat) : State :=
  { s with inputs := inputsOfFetch s.cfg w :: s.inputs.tail, phase := phaseFor (fetchRun w) s.phase }

end Sys2Proof.Machine
end

