-- ==== Sys2Proof/Machine/Step.lean ====
section
/-! DEFINITION. One clock cycle (00_scope.md R11): select the operation from the ports and `PHASE`, and perform it. -/

namespace Sys2Proof.Machine

/-- One cycle. The operation is selected from this cycle's ports and `PHASE` before the edge (30_encoding.md R78); the
host's next inputs are those of the next cycle. -/
def step (s : State) : Host.Outcome State Fault Refusal :=
  exec (decodeWord s.cfg (fetched s)) (advanceInputs s)

/-- `s` with the table word `w` (bits from `nbits` on are 0) placed where the next cycle fetches it: on this cycle's
ports, with `PHASE` as its `run` bit says. A program comes to run by what the host drives (log 4). -/
def State.withFetchWord (s : State) (nbits w : Nat) : State := placeWord s (trunc nbits w)

end Sys2Proof.Machine
end

