-- ==== Sys2Proof/Machine/Flags.lean ====
section
/-! DEFINITION. The flags as the outside sees them: codes (30_encoding.md R75, R76), the `STATUS` view (10_state.md
R32) and the output ports (30_encoding.md R77). -/

namespace Sys2Proof.Machine

/-- The 2-bit code of `PHASE` (30_encoding.md R75). -/
def Phase.code : Phase → Nat
  | .idle => 0b00
  | .run => 0b01
  | .done => 0b10
  | .err => 0b11

/-- The 3-bit code of `CAUSE` (30_encoding.md R76). -/
def Cause.code : Cause → Nat
  | .none => 0
  | .invalidSeed => 1
  | .invalidWidth => 2
  | .invalidTap => 3
  | .noClosure => 4

/-- The composite view `STATUS`: `EMIT` in bit 5, `CAUSE` in bits 4 to 2, `PHASE` in bits 1 to 0 (10_state.md R32). -/
def status (s : State) : Nat := s.emit.toNat * 32 + s.cause.code * 4 + s.phase.code

/-- The output ports, each a function of the state in the same cycle (30_encoding.md R77). -/
def ports (s : State) : OutPorts :=
  { phase := s.phase.code
    cause := s.cause.code
    ready := decide (s.phase ≠ .run)
    done := decide (s.phase = .done)
    err := decide (s.phase = .err)
    count := s.count
    outValid := s.emit
    outState := s.reg
    outLast := s.emit && decide (s.phase = .done) }

end Sys2Proof.Machine
end

