-- ==== Sys2Proof/Machine/Requests.lean ====
section
/-! DEFINITION. The host's side of the pseudo-operations of 30_encoding.md R84: a host that drives the ports, watches
`ready`, and reads the result. -/

namespace Sys2Proof.Machine

/-! ## Requests -/

/-- The ports of a cycle with `rst = 1`. -/
def Inputs.reset : Inputs := { Inputs.idle with rst := true }

/-- The ports of a cycle that asks for `START seed, taps, width`, the tap set as its mask (30_encoding.md R83). -/
def Inputs.startWith (seed : Nat) (taps : List Nat) (width : Nat) : Inputs :=
  { rst := false, start := true, seedIn := seed, tapsIn := encodeTaps taps, widthIn := width }

/-- One cycle in which the host drives `x`, before whatever else it will drive. -/
def drive (x : Inputs) (s : State) : Host.Outcome State Fault Refusal := step { s with inputs := x :: s.inputs }

/-! ## `IDLE n` -/

/-- The pseudo-operation `IDLE n`: `n` cycles with `start = 0` and `rst = 0` (30_encoding.md R84). -/
def idleFor (n : Nat) : List Inputs := List.replicate n Inputs.idle

/-! ## `WAIT` -/

/-- The states seen while the host drives `start = 0` until it sees `ready = 1`, from this cycle's to the first ready
one, in at most `bound` cycles. -/
def untilReady : Nat → State → List State
  | 0, s => [s]
  | bound + 1, s =>
    if (ports s).ready then [s]
    else
      match drive Inputs.idle s with
      | .next t => s :: untilReady bound t
      | .fault _ => [s]
      | .refused _ => [s]

/-- The pseudo-operation `WAIT`: `start = 0` held until `ready = 1` (30_encoding.md R84), as the states seen on the way,
the ready one last. A run ends within `2^WIDTH - 1` cycles (60_exceptions.md R199), which bounds the wait (log 19). -/
def wait (s : State) : List State := untilReady (2 ^ s.width) s

/-- The requests of `WAIT`: one with `start = 0` for every cycle before the ready one. -/
def waitRequests (s : State) : List Inputs := idleFor ((wait s).length - 1)

/-! ## `SIMULATE` -/

/-- What the host reads at the end of `SIMULATE`: `phase`, `cause`, `count`, and the `out_state` values collected while
`out_valid = 1` (30_encoding.md R84). -/
structure Reading where
  phase    : Nat
  cause    : Nat
  count    : Nat
  elements : List Nat
  deriving DecidableEq, Repr

/-- The stream element a cycle shows, if it shows one (20_memory.md R63). -/
def shownElement (s : State) : List Nat := if (ports s).outValid then [(ports s).outState] else []

/-- The reading after the cycles `seen`: the ports in the last one, if it is ready, and the elements all of them
showed. -/
def readingOf (seen : List State) : Option Reading :=
  match seen.getLast? with
  | none => none
  | some u =>
    if (ports u).ready then
      some { phase := (ports u).phase, cause := (ports u).cause, count := (ports u).count,
             elements := seen.flatMap shownElement }
    else none

/-- The pseudo-operation `SIMULATE seed, taps, width` (30_encoding.md R84): `START`, then `start = 0` in every following
cycle until `ready = 1`, and the result read in that cycle. -/
def simulatePseudo (seed : Nat) (taps : List Nat) (width : Nat) (s : State) : Option Reading :=
  match drive (Inputs.startWith seed taps width) s with
  | .next t => readingOf (wait t)
  | .fault _ => none
  | .refused _ => none

/-- The requests of `SIMULATE`: the START, then those of `WAIT` from the state it leaves. -/
def simulateRequests (seed : Nat) (taps : List Nat) (width : Nat) (s : State) : List Inputs :=
  match drive (Inputs.startWith seed taps width) s with
  | .next t => Inputs.startWith seed taps width :: waitRequests t
  | .fault _ => [Inputs.startWith seed taps width]
  | .refused _ => [Inputs.startWith seed taps width]

end Sys2Proof.Machine
end

