-- ==== Sys2Proof/Machine/Run.lean ====
section
/-! DEFINITION. The whole run as a function (42_run_semantics.md), and the functions its laws are stated in. -/

namespace Sys2Proof.Machine

/-! ## The run as a function -/

/-- What `simulate` returns (42_run_semantics.md R160). -/
inductive RunResult where
  /-- The operands were refused: no trajectory at all. -/
  | error (e : ErrorCause)
  /-- The run closed: the trajectory and the cycle length. -/
  | closed (traj : List Nat) (cycleLength : Nat)
  /-- The ceiling was reached: the prefix and the number of transitions. -/
  | noClosure (pref : List Nat) (transitions : Nat)
  deriving DecidableEq, Repr

/-- The loop of `simulate` (42_run_semantics.md R160) from the state `r` reached after `k` transitions, with `traj` so
far. `fuel` bounds the transitions still to make; `simulate` gives it the whole ceiling, so it never runs out
there. -/
def simulateLoop (seed : Nat) (taps : List Nat) (width : Nat) : Nat → Nat → Nat → List Nat → RunResult
  | 0, _, k, traj => .noClosure traj k
  | fuel + 1, r, k, traj =>
    let n := next r taps width
    if n = seed then .closed (traj ++ [n]) (k + 1)
    else if k + 1 = 2 ^ width - 1 then .noClosure (traj ++ [n]) (k + 1)
    else simulateLoop seed taps width fuel n (k + 1) (traj ++ [n])

/-- `simulate(seed, taps, width)` (42_run_semantics.md R160), for an instance of parameter `wmax`. -/
def simulate (wmax seed : Nat) (taps : List Nat) (width : Nat) : RunResult :=
  match validate wmax seed taps width with
  | some e => .error e
  | none => simulateLoop seed taps width (2 ^ width - 1) seed 0 [seed]

/-- The state sequence `s_0 = seed`, `s_(k+1) = next(s_k, taps, width)`, defined for every `k` (42_run_semantics.md
R161, for valid operands). At width 0 it follows the choice made for `next` there (log 20). -/
def seqAt (seed : Nat) (taps : List Nat) (width : Nat) : Nat → Nat
  | 0 => seed
  | k + 1 => next (seqAt seed taps width k) taps width

/-! ## The functions of the derived laws -/

/-- The exclusive OR of the bits `f(t)` over a set, false for the empty set. -/
def xorBits (taps : List Nat) (f : Nat → Bool) : Bool := taps.foldr (fun t b => Bool.xor (f t) b) false

/-- `U(r) = r >> 1` (00_scope.md R14). -/
def upper (r : Nat) : Nat := r >>> 1

/-- `h(u) = u[0] ^ XOR{ u[t-1] : t in T, t <= w - 1 }` (41_transition_step.md R144), for `w >= 2`
and positions. What it is elsewhere is a DESIGN CHOICE, log 20. -/
def upperFeedback (u : Nat) (taps : List Nat) (w : Nat) : Bool :=
  Bool.xor (u.testBit 0) (xorBits (taps.filter fun t => decide (t ≤ w - 1)) fun t => u.testBit (t - 1))

/-- `g(u) = (u >> 1) | (h(u) << (w - 2))` (41_transition_step.md R144), for `w >= 2`. What it is at a smaller `w` is
a DESIGN CHOICE, log 20. -/
def upperNext (u : Nat) (taps : List Nat) (w : Nat) : Nat :=
  (u >>> 1) ||| ((upperFeedback u taps w).toNat <<< (w - 2))

/-- `x[0] ^ x[w-1] ^ XOR{ x[t-1] : t in T, t <= w - 1 }`, which 41_transition_step.md R142 and 42_run_semantics.md R167
compare with 0, for `w >= 2` and positions. What it is elsewhere is a DESIGN CHOICE, log 20. -/
def closureParity (x : Nat) (taps : List Nat) (w : Nat) : Bool :=
  Bool.xor (Bool.xor (x.testBit 0) (x.testBit (w - 1)))
    (xorBits (taps.filter fun t => decide (t ≤ w - 1)) fun t => x.testBit (t - 1))

/-- A run that returns to its seed. -/
def RunResult.isClosed : RunResult → Bool
  | .error _ => false
  | .closed _ _ => true
  | .noClosure _ _ => false

end Sys2Proof.Machine
end

