-- ==== Sys2Proof/Safety.lean ====
section
/-! DEFINITION. What claims are stated in: runs of several cycles, the widths of the registers, and the invariants of
10_state.md R37. -/

namespace Sys2Proof.Machine

/-! ## Runs -/

/-- `k` cycles from `s`: `Host.Core.run` of this machine, in the model's own names. -/
def runFor : Nat → State → Host.Outcome State Fault Refusal
  | 0, s => .next s
  | k + 1, s =>
    match step s with
    | .next t => runFor k t
    | .fault r => .fault r
    | .refused r => .refused r

/-- The host keeps `rst = 0` in every cycle still to come. -/
abbrev NoReset (s : State) : Prop := ∀ x ∈ s.inputs, x.rst = false

/-- The host asks for nothing in the next `k` cycles: `rst = 0` and `start = 0`. -/
abbrev AsksNothingFor (k : Nat) (s : State) : Prop := ∀ x ∈ s.inputs.take k, x.rst = false ∧ x.start = false

/-- What the host collects in the next `k` cycles: `out_state` in each cycle whose edge leaves `out_valid = 1`
(20_memory.md R63). -/
def collected : Nat → State → List Nat
  | 0, _ => []
  | k + 1, s =>
    match step s with
    | .next t => shownElement t ++ collected k t
    | .fault _ => []
    | .refused _ => []

/-! ## The widths of the registers -/

/-- Every register holds a value of its width (10_state.md R21, R31), and the trajectory has its form. -/
abbrev Fits (s : State) : Prop :=
  s.width < 2 ^ s.cfg.wb ∧ s.seed < 2 ^ s.cfg.wmax ∧ s.taps < 2 ^ s.cfg.wmax ∧ s.reg < 2 ^ s.cfg.wmax ∧
    s.count < 2 ^ s.cfg.wmax ∧ Memory.wf s.cfg s.traj

/-! ## The invariants of 10_state.md R37 -/

/-- Item 1. -/
abbrev CauseMatchesPhase (s : State) : Prop := s.cause = .none ↔ s.phase ≠ .err

/-- Item 2: legal operands, and a trajectory of `COUNT + 1` states, each the successor of the one before it, from the
seed to `REG`. -/
abbrev RunRecord (s : State) : Prop :=
  (1 ≤ s.width ∧ s.width ≤ s.cfg.wmax) ∧ (1 ≤ s.seed ∧ s.seed < 2 ^ s.width) ∧
    (∀ t ∈ decodeTaps s.cfg.wmax s.taps, 2 ≤ t ∧ t ≤ s.width) ∧ s.reg < 2 ^ s.width ∧
    s.traj.length = s.count + 1 ∧ Memory.read s.traj 0 = some s.seed ∧ Memory.read s.traj s.count = some s.reg ∧
    ∀ k < s.count, Memory.read s.traj (k + 1) =
      (Memory.read s.traj k).map fun r => next r (decodeTaps s.cfg.wmax s.taps) s.width

/-- The seed has not recurred at any index from 1 to `k`. -/
abbrev SeedNotBackBy (k : Nat) (s : State) : Prop :=
  ∀ j < k, Memory.read s.traj (j + 1) ≠ some s.seed

/-- Item 3, in `RUN`. -/
abbrev RunningRecord (s : State) : Prop :=
  RunRecord s ∧ s.count < 2 ^ s.width - 1 ∧ SeedNotBackBy s.count s

/-- Item 4, in `DONE`: `COUNT` is the least index of at least 1 at which the seed stands. -/
abbrev ClosedRecord (s : State) : Prop :=
  RunRecord s ∧ (1 ≤ s.count ∧ s.count ≤ 2 ^ s.width - 1) ∧ s.reg = s.seed ∧ SeedNotBackBy (s.count - 1) s

/-- Item 5, in `ERR` with `CAUSE = NoClosure`. -/
abbrev CeilingRecord (s : State) : Prop :=
  RunRecord s ∧ s.count = 2 ^ s.width - 1 ∧ SeedNotBackBy s.count s

/-- Item 6, in `ERR` with an input error: nothing is recorded but the refused operands, which are refused for that
cause. -/
abbrev RefusedRecord (e : ErrorCause) (s : State) : Prop :=
  s.reg = 0 ∧ s.count = 0 ∧ s.traj = [] ∧ s.emit = false ∧
    validate s.cfg.wmax s.seed (decodeTaps s.cfg.wmax s.taps) s.width = some e

/-- Item 7, in `IDLE`: every register is 0. -/
abbrev IdleRecord (s : State) : Prop :=
  s.width = 0 ∧ s.seed = 0 ∧ s.taps = 0 ∧ s.reg = 0 ∧ s.count = 0 ∧ s.traj = []

/-- Items 2 to 7: what the state holds, by phase and cause. -/
abbrev PhaseRecord (s : State) : Prop :=
  (s.phase = .idle → IdleRecord s) ∧ (s.phase = .run → RunningRecord s) ∧ (s.phase = .done → ClosedRecord s) ∧
    (s.phase = .err → s.cause = .noClosure → CeilingRecord s) ∧
    (s.phase = .err → s.cause = .invalidSeed → RefusedRecord .invalidSeed s) ∧
    (s.phase = .err → s.cause = .invalidWidth → RefusedRecord .invalidWidth s) ∧
    (s.phase = .err → s.cause = .invalidTap → RefusedRecord .invalidTap s)

/-- Item 8. -/
abbrev EmitMeansAppended (s : State) : Prop := s.emit = true → s.phase ≠ .idle ∧ 1 ≤ s.traj.length

/-- The invariants of 10_state.md R37, with the widths of the registers and the constraint on `WMAX`. -/
abbrev Inv (s : State) : Prop :=
  s.cfg.ok ∧ Fits s ∧ CauseMatchesPhase s ∧ PhaseRecord s ∧ EmitMeansAppended s

end Sys2Proof.Machine
end

