-- ==== Sys2Proof/Certificates/Slice0/Obligations.lean ====
section
/-! DEFINITION. The statements for the provers. A state `s` ranges over every instance (`s.cfg`, any `WMAX`) and every
future of the host (`s.inputs`). -/

open Sys2Proof Sys2Proof.Machine

/-! ## RESET -/

/-- 70_reset_and_hazards.md R221: `rst` has priority over everything, and the cycle is a RESET, which gives every piece
of state its reset value. `cfg` and the later `inputs` are the model's own fields (log 1, log 3) and stay. -/
def Obligations.RstHasPriorityOverEverything : Prop :=
  ∀ s : State, (currentInputs s).rst = true →
    step s = .next
      { cfg := s.cfg, inputs := s.inputs.tail, phase := .idle, cause := .none, width := 0, seed := 0, taps := 0,
        reg := 0, count := 0, emit := false, traj := [] }

/-- 70_reset_and_hazards.md R220: `rst = 1` selects it; the operation itself, in every state; one RESET is the same as
several; and RESET in `IDLE` changes nothing (in the states of 10_state.md R37: there `EMIT` and every register are
0). -/
def Obligations.ResetWritesEveryResetValue : Prop :=
  (∀ s : State, (currentInputs s).rst = true → step s = exec .reset (advanceInputs s)) ∧
    (∀ s : State, exec .reset s = .next
      { cfg := s.cfg, inputs := s.inputs, phase := .idle, cause := .none, width := 0, seed := 0, taps := 0,
        reg := 0, count := 0, emit := false, traj := [] }) ∧
    (∀ s t : State, exec .reset s = .next t → exec .reset t = .next t) ∧
    ∀ s : State, Inv s → s.phase = .idle → exec .reset s = .next s

/-- 10_state.md section 8: the state after reset. `cfg` (`WMAX = 16`) and `inputs` are the model's choices (log 1,
log 3), and the statement says of `cfg` only that it is an instance. -/
def Obligations.ResetStateHoldsTheTable : Prop :=
  State.reset.cfg.ok ∧ State.reset.phase = .idle ∧ State.reset.cause = .none ∧ State.reset.width = 0 ∧
    State.reset.seed = 0 ∧ State.reset.taps = 0 ∧ State.reset.reg = 0 ∧ State.reset.count = 0 ∧
    State.reset.emit = false ∧ State.reset.traj = []

/-! ## NOP -/

/-- 40_command_start.md R100: when it is selected, that it writes `EMIT` only, and that further NOPs change nothing. -/
def Obligations.NopWritesEmitOnly : Prop :=
  (∀ s : State, exec .nop s = .next { s with emit := false }) ∧
    (∀ s : State, s.emit = false → exec .nop s = .next s) ∧
    ∀ s : State, s.phase ≠ .run → (currentInputs s).rst = false → (currentInputs s).start = false →
      step s = .next { s with emit := false, inputs := s.inputs.tail }

/-- 42_run_semantics.md section 1, the last sentence on the correspondence of the levels: outside a run "the state then
stays as it is until the next START or RESET", but for `EMIT`. -/
def Obligations.ResultIsHeldUntilTheNextCommand : Prop :=
  ∀ (k : Nat) (s : State), s.phase ≠ .run → AsksNothingFor (k + 1) s →
    runFor (k + 1) s = .next { s with emit := false, inputs := s.inputs.drop (k + 1) }

/-! ## START -/

/-- 40_command_start.md R102 and the postcondition of a successful START: with operands that pass the three tests, from
any state, the run begins with the seed as the first element, and the ports of the next cycle show it. -/
def Obligations.LegalStartBeginsRun : Prop :=
  ∀ (s : State) (seed taps width : Nat), 1 ≤ width → width ≤ s.cfg.wmax → 1 ≤ seed → seed < 2 ^ width →
    taps.testBit 0 = false → taps < 2 ^ width →
    ∃ t : State, exec (.start seed taps width) s = .next t ∧
      t = { cfg := s.cfg, inputs := s.inputs, phase := .run, cause := .none, width := width, seed := seed,
            taps := taps, reg := seed, count := 0, emit := true, traj := [seed] } ∧
      (ports t).ready = false ∧ (ports t).outValid = true ∧ (ports t).outState = seed ∧
      (ports t).outLast = false ∧ (ports t).count = 0

/-- 40_command_start.md R104 to R106, on operands the ports can carry: which cause a START leaves, by the port-level
tests in their order (60_exceptions.md section 2); and each port-level test says of the set of positions what the rule
says: position 1 or a position above the width is in it. -/
def Obligations.StartCauseByPortLevelTests : Prop :=
  ∀ (s : State) (seed taps width : Nat), (Instr.start seed taps width).wellFormed s.cfg = true →
    (∃ t : State, exec (.start seed taps width) s = .next t ∧
      t.cause =
        (if width = 0 ∨ s.cfg.wmax < width then Cause.invalidWidth
         else if seed = 0 ∨ seed >>> width ≠ 0 then Cause.invalidSeed
         else if taps.testBit 0 = true ∨ taps >>> width ≠ 0 then Cause.invalidTap
         else Cause.none) ∧
      (t.phase = .run ↔ t.cause = .none) ∧ (t.phase = .err ↔ t.cause ≠ .none)) ∧
    (seed >>> width ≠ 0 ↔ 2 ^ width ≤ seed) ∧
    (seed >>> width ≠ 0 ↔ ∃ i, width ≤ i ∧ i < s.cfg.wmax ∧ seed.testBit i = true) ∧
    ((taps.testBit 0 = true ∨ taps >>> width ≠ 0) ↔
      ∃ p ∈ decodeTaps s.cfg.wmax taps, p = 1 ∨ width < p)

/-- 60_exceptions.md R196, error entry: the whole state after a refused START, with the refused operands latched; the
whole state after a STEP at the ceiling, with what the STEP wrote; and the engine then sits in `ERR`, performing NOPs,
ready, until a START or a RESET. -/
def Obligations.ErrorEntryLeavesThisState : Prop :=
  (∀ (s : State) (seed taps width : Nat) (e : ErrorCause),
    (Instr.start seed taps width).wellFormed s.cfg = true →
    validate s.cfg.wmax seed (decodeTaps s.cfg.wmax taps) width = some e →
    exec (.start seed taps width) s = .next
      { cfg := s.cfg, inputs := s.inputs, phase := .err, cause := e.toCause, width := width, seed := seed,
        taps := taps, reg := 0, count := 0, emit := false, traj := [] }) ∧
    (∀ s : State, 1 ≤ s.width → s.width ≤ s.cfg.wmax → s.reg < 2 ^ s.width → s.count + 1 = 2 ^ s.width - 1 →
      next s.reg (decodeTaps s.cfg.wmax s.taps) s.width ≠ s.seed →
      exec .step s = .next
        { s with
          phase := .err, cause := .noClosure, reg := next s.reg (decodeTaps s.cfg.wmax s.taps) s.width,
          count := s.count + 1, emit := true,
          traj := s.traj ++ [next s.reg (decodeTaps s.cfg.wmax s.taps) s.width] }) ∧
    ∀ s : State, s.phase = .err →
      (ports s).ready = true ∧ (ports s).err = true ∧
      ((currentInputs s).rst = false → (currentInputs s).start = false →
        step s = .next { s with emit := false, inputs := s.inputs.tail })

/-- 30_encoding.md section 6: function-level operands with no port-level image still have an outcome, and for operands
that have an image START reports what `validate` says of the set. -/
def Obligations.FunctionAndPortLevelAgreeOnOperands : Prop :=
  (∀ (c : Config) (seed : Nat) (taps : List Nat) (width : Nat),
    (2 ^ c.wb ≤ width → validate c.wmax seed taps width = some .invalidWidth) ∧
    (1 ≤ width → width ≤ c.wmax → 2 ^ c.wmax ≤ seed → validate c.wmax seed taps width = some .invalidSeed) ∧
    (1 ≤ width → width ≤ c.wmax → 1 ≤ seed → seed < 2 ^ width → (∃ t ∈ taps, c.wmax < t) →
      validate c.wmax seed taps width = some .invalidTap)) ∧
    ∀ (s : State) (seed : Nat) (taps : List Nat) (width : Nat), seed < 2 ^ s.cfg.wmax → width < 2 ^ s.cfg.wb →
      taps.Pairwise (· < ·) → (∀ p ∈ taps, 1 ≤ p ∧ p ≤ s.cfg.wmax) →
      ∃ t : State, exec (.start seed (encodeTaps taps) width) s = .next t ∧
        t.cause = ((validate s.cfg.wmax seed taps width).map ErrorCause.toCause).getD .none

/-- 40_command_start.md section 2, "No persistence": the state after a START depends on the operands alone (on one
instance and before the same future of the host). -/
def Obligations.StartForgetsTheOldState : Prop :=
  ∀ (s u : State) (seed taps width : Nat), s.cfg = u.cfg → s.inputs = u.inputs →
    exec (.start seed taps width) s = exec (.start seed taps width) u

/-- 42_run_semantics.md R170, at register level: two engines of one instance, in any phases in which a START is
accepted, that get the same START and the same inputs after it, are in the same state after every later cycle. -/
def Obligations.EqualStartsGiveEqualRuns : Prop :=
  ∀ (s u : State) (x : Inputs) (rest : List Inputs), s.cfg = u.cfg → s.phase ≠ .run → u.phase ≠ .run →
    x.rst = false → x.start = true →
    ∀ k : Nat, runFor (k + 1) { s with inputs := x :: rest } = runFor (k + 1) { u with inputs := x :: rest }

/-! ## STEP -/

/-- 41_transition_step.md R130, R135, R136 and R138: a STEP is performed in every cycle of a run, and its three exits,
for every state whose width, register and count are those of a run. -/
def Obligations.StepTransitionsAppendsAndCompares : Prop :=
  (∀ s : State, s.phase = .run → (currentInputs s).rst = false → step s = exec .step (advanceInputs s)) ∧
    ∀ s : State, 1 ≤ s.width → s.width ≤ s.cfg.wmax → s.reg < 2 ^ s.width → s.count < 2 ^ s.width - 1 →
    ∀ n : Nat, n = next s.reg (decodeTaps s.cfg.wmax s.taps) s.width →
    (n = s.seed → exec .step s = .next
      { s with reg := n, count := s.count + 1, emit := true, traj := s.traj ++ [n], phase := .done }) ∧
    (n ≠ s.seed → s.count + 1 = 2 ^ s.width - 1 → exec .step s = .next
      { s with
        reg := n, count := s.count + 1, emit := true, traj := s.traj ++ [n], phase := .err, cause := .noClosure }) ∧
    (n ≠ s.seed → s.count + 1 ≠ 2 ^ s.width - 1 → exec .step s = .next
      { s with reg := n, count := s.count + 1, emit := true, traj := s.traj ++ [n] })

/-- 10_state.md section 9, STEP's column, for every state, those no run reaches included: STEP writes no operand
register, flags its element, appends exactly `REG`'s new value at index `len(TRAJ)`, keeps every element before it, and
writes `CAUSE` only with `NoClosure`. -/
def Obligations.StepFrame : Prop :=
  ∀ s : State, ∃ t : State, exec .step s = .next t ∧
    t.cfg = s.cfg ∧ t.inputs = s.inputs ∧ t.width = s.width ∧ t.seed = s.seed ∧ t.taps = s.taps ∧ t.emit = true ∧
    Memory.read t.traj s.traj.length = some t.reg ∧ t.traj.length = s.traj.length + 1 ∧
    (∀ k < s.traj.length, Memory.read t.traj k = Memory.read s.traj k) ∧
    (t.cause = s.cause ∨ (t.phase = .err ∧ t.cause = .noClosure)) ∧
    (t.phase = s.phase ∨ t.phase = .done ∨ t.phase = .err)

/-- 41_transition_step.md R133: the successor bit by bit, and its range. -/
def Obligations.SuccessorBitByBit : Prop :=
  ∀ (r : Nat) (taps : List Nat) (w : Nat), 1 ≤ w → r < 2 ^ w →
    next r taps w = (r >>> 1) ||| (fb r taps <<< (w - 1)) ∧ next r taps w < 2 ^ w ∧
    (∀ i, i + 2 ≤ w → (next r taps w).testBit i = r.testBit (i + 1)) ∧
    (next r taps w).testBit (w - 1) = decide (fb r taps = 1)

/-- 41_transition_step.md section 2: the accumulator bit by bit, and the feedback bit, which is 0 or 1 and is the
accumulator's bit of weight 2. This is the spec's for taps of at least 1. The statement also ranges over lists that hold
0, which is no position: there it is the model's choice (log 20), so its basis is derived. -/
def Obligations.FeedbackIsAccumulatorBitOfWeightTwo : Prop :=
  ∀ (r : Nat) (taps : List Nat),
    (∀ i, (acc r taps).testBit i = Bool.xor (r.testBit i) (xorBits taps fun t => r.testBit (t - 1 + i))) ∧
    (fb r taps = if (acc r taps) &&& 2 ≠ 0 then 1 else 0)

/-- 41_transition_step.md section 4, the closed form (an inference of the spec's): the feedback is bit index 1 and bit
index `t` of every tap `t`; so bit index 0 never enters it when no tap is 0. -/
def Obligations.FeedbackClosedForm : Prop :=
  ∀ (r : Nat) (taps : List Nat), (∀ t ∈ taps, 1 ≤ t) →
    fb r taps = (Bool.xor (r.testBit 1) (xorBits taps fun t => r.testBit t)).toNat ∧ fb (r ^^^ 1) taps = fb r taps

/-- 41_transition_step.md R140: 0 is its own successor, and a run whose register reaches 0 never closes and ends in
`NoClosure`. For `w = 0`, or a list that holds 0, the first clause rests on the model's choice for `next` (log 20). -/
def Obligations.ZeroIsAFixedPoint : Prop :=
  (∀ (taps : List Nat) (w : Nat), acc 0 taps = 0 ∧ next 0 taps w = 0) ∧
    ∀ (wmax seed : Nat) (taps : List Nat) (w : Nat), validate wmax seed taps w = none →
      (∃ k, seqAt seed taps w k = 0) →
      (∀ k, 1 ≤ k → seqAt seed taps w k ≠ seed) ∧
        ∃ pref, simulate wmax seed taps w = .noClosure pref (2 ^ w - 1)

/-- 41_transition_step.md section 2, "Order of taps", and 30_encoding.md section 2, where the tap set "has no order": the
order in which taps are folded is not observable (an inference of the spec's). At `w = 0`, and for a list that holds 0,
the clauses on `acc` and `next` rest on the model's choices (log 20). -/
def Obligations.TapOrderIsUnobservable : Prop :=
  ∀ (taps taps' : List Nat), taps.Perm taps' →
    (∀ r : Nat, acc r taps = acc r taps') ∧ (∀ (r : Nat) (w : Nat), next r taps w = next r taps' w) ∧
    ∀ wmax seed w : Nat, simulate wmax seed taps w = simulate wmax seed taps' w

/-- 41_transition_step.md section 4, "The transition is not injective" (an inference of the spec's): bit index 0 does
not matter, the image is given by the parity, and a state of the image has exactly two predecessors. -/
def Obligations.TransitionIsTwoToOne : Prop :=
  ∀ (taps : List Nat) (w : Nat), 2 ≤ w → (∀ t ∈ taps, 2 ≤ t ∧ t ≤ w) →
    (∀ r : Nat, next (r ^^^ 1) taps w = next r taps w) ∧
    ∀ x : Nat, x < 2 ^ w →
      ((∃ r, r < 2 ^ w ∧ next r taps w = x) ↔ closureParity x taps w = false) ∧
      (closureParity x taps w = false → ∀ r : Nat, r < 2 ^ w →
        (next r taps w = x ↔ r = (x <<< 1) &&& (2 ^ w - 1) ∨ r = ((x <<< 1) &&& (2 ^ w - 1)) + 1))

/-- 41_transition_step.md section 4 (an inference of the spec's): a tap at position `w` is legal and contributes
nothing. -/
def Obligations.TapAtTheWidthContributesNothing : Prop :=
  ∀ (r : Nat) (taps : List Nat) (w : Nat), 1 ≤ w → r < 2 ^ w →
    next r taps w = next r (taps.filter fun t => decide (t ≠ w)) w

/-- 41_transition_step.md section 4, "Structure" (an inference of the spec's): the upper `w - 1` bits are a
conventional register under a bijection `g`, and bit index 0 trails one step behind. -/
def Obligations.UpperBitsAreAConventionalRegister : Prop :=
  ∀ (taps : List Nat) (w : Nat), 2 ≤ w → (∀ t ∈ taps, 2 ≤ t ∧ t ≤ w) →
    (∀ r : Nat, r < 2 ^ w →
      next r taps w = (upperNext (upper r) taps w <<< 1) ||| ((upper r).testBit 0).toNat ∧
      upper (next r taps w) = upperNext (upper r) taps w ∧ (next r taps w).testBit 0 = r.testBit 1) ∧
    (∀ u, u < 2 ^ (w - 1) → upperNext u taps w < 2 ^ (w - 1)) ∧
    ∀ v, v < 2 ^ (w - 1) → ∃ u, u < 2 ^ (w - 1) ∧ upperNext u taps w = v ∧
      ∀ u', u' < 2 ^ (w - 1) → upperNext u' taps w = v → u' = u

/-! ## Encodings and selection -/

/-- 30_encoding.md sections 2 and 3: no operand bit is dropped on the way through the encoder and the decoder, on any
instance. The numbering of the word is the model's (log 5). -/
def Obligations.DecodeOfEncodeIsTheOperation : Prop :=
  ∀ (c : Config) (i : Instr), i.wellFormed c = true →
    decodeWord c (encode c i) = i ∧ decode c (encode c i) = .instr i

/-- 30_encoding.md R78: the table selects exactly one operation for every `SEL`, it is the one of the chain of tests,
and a cycle performs what that chain selects from `rst`, `PHASE` and `start`. -/
def Obligations.ExactlyOneOperationIsSelected : Prop :=
  (∀ sel < 8, (opTable.filter fun r => r.selects sel).map (·.op) = [selectOp sel]) ∧
    ∀ s : State, step s =
      (if (currentInputs s).rst = true then exec .reset (advanceInputs s)
       else if s.phase = .run then exec .step (advanceInputs s)
       else if (currentInputs s).start = true then
         exec (.start (trunc s.cfg.wmax (currentInputs s).seedIn) (trunc s.cfg.wmax (currentInputs s).tapsIn)
           (trunc s.cfg.wb (currentInputs s).widthIn)) (advanceInputs s)
       else exec .nop (advanceInputs s))

/-- A sanity statement on the instance `WMAX = 16`: selectors of the table of 30_encoding.md section 3, and command
bundles of 95_test_vectors.md (30_encoding.md section 2). The word with operands above its selector is the spec's
bundle fields under the model's numbering (log 5). -/
def Obligations.WordsOfTheSpecDecode : Prop :=
  decodeTableWord 3 0b000 = some .nop ∧ decodeTableWord 3 0b010 = some .step ∧ decodeTableWord 3 0b011 = some .step ∧
    decodeTableWord 3 0b100 = some .reset ∧ decodeTableWord 3 0b111 = some .reset ∧
    decodeTableWord 40 (0x0400040002 * 8 + 1) = some (.start 2 0x0004 4) ∧
    bundleOf Config.chosen ⟨false, true, 2, 0x0004, 4⟩ = 0x2400040002 ∧
    inputsOfBundle Config.chosen false 0x301806AE1F = ⟨false, true, 0xAE1F, 0x1806, 16⟩

/-- A cycle runs the decoded operation: the word fetched from the ports and `PHASE` always decodes, to a well-formed
operation, and the cycle is `exec` of it, with the host's inputs moved on to the next cycle (log 3, log 5). -/
def Obligations.StepRunsTheDecodedOperation : Prop :=
  (∀ (s : State) (i : Instr), decode s.cfg (fetched s) = .instr i → step s = exec i (advanceInputs s)) ∧
    ∀ s : State, ∃ i : Instr, decode s.cfg (fetched s) = .instr i ∧ i.wellFormed s.cfg = true

/-- A word placed for the next cycle is the word it fetches, bit for bit, and nothing but this cycle's ports and, where
the word's `run` bit asks for it, `PHASE` is touched (log 4). -/
def Obligations.PlacedWordIsFetched : Prop :=
  ∀ (s : State) (nbits w : Nat), w < 2 ^ nbits → w < 2 ^ fetchBits s.cfg →
    fetched (s.withFetchWord nbits w) = w ∧
    (s.withFetchWord nbits w) =
      { s with inputs := (s.withFetchWord nbits w).inputs, phase := (s.withFetchWord nbits w).phase } ∧
    (s.withFetchWord nbits w).inputs.tail = s.inputs.tail ∧
    ((s.phase = .run ↔ w.testBit 1 = true) → (s.withFetchWord nbits w).phase = s.phase)

/-- 30_encoding.md R74: the bundle and the ports determine each other, at the bit positions the rule gives, it has
`2*WMAX + WB + 1` bits, and with `start = 0` the other fields are ignored whatever they hold. -/
def Obligations.CommandBundleIsThePorts : Prop :=
  (∀ (c : Config) (x : Inputs), x.seedIn < 2 ^ c.wmax → x.tapsIn < 2 ^ c.wmax → x.widthIn < 2 ^ c.wb →
    bundleOf c x < 2 ^ (2 * c.wmax + c.wb + 1) ∧ inputsOfBundle c x.rst (bundleOf c x) = x ∧
    (∀ i < c.wmax, (bundleOf c x).testBit i = x.seedIn.testBit i) ∧
    (∀ i < c.wmax, (bundleOf c x).testBit (c.wmax + i) = x.tapsIn.testBit i) ∧
    (∀ i < c.wb, (bundleOf c x).testBit (2 * c.wmax + i) = x.widthIn.testBit i) ∧
    (bundleOf c x).testBit (2 * c.wmax + c.wb) = x.start) ∧
    (∀ (c : Config) (rst : Bool) (cb : Nat), cb < 2 ^ (2 * c.wmax + c.wb + 1) →
      bundleOf c (inputsOfBundle c rst cb) = cb) ∧
    ∀ (s : State) (x y : Inputs) (rest : List Inputs), x.rst = y.rst → x.start = false → y.start = false →
      step { s with inputs := x :: rest } = step { s with inputs := y :: rest }

/-- 30_encoding.md section 2, the tap mask: what `decodeTaps` and `encodeTaps` are, that they are inverse on masks of
`WMAX` bits and on sets of positions within `[1, WMAX]`, and the spec's example. -/
def Obligations.TapMaskIsTheSet : Prop :=
  (∀ (wmax : Nat) (mask : Nat) (p : Nat),
    p ∈ decodeTaps wmax mask ↔ 1 ≤ p ∧ p ≤ wmax ∧ mask.testBit (p - 1) = true) ∧
    (∀ (wmax : Nat) (mask : Nat), mask < 2 ^ wmax → encodeTaps (decodeTaps wmax mask) = mask) ∧
    (∀ (wmax : Nat) (taps : List Nat), taps.Pairwise (· < ·) → (∀ p ∈ taps, 1 ≤ p ∧ p ≤ wmax) →
      encodeTaps taps < 2 ^ wmax ∧ decodeTaps wmax (encodeTaps taps) = taps) ∧
    encodeTaps [13, 12, 2, 3] = 0x1806

/-- 30_encoding.md R81: `CAUSE` codes 5 to 7 do not occur; a cycle that is not a START ignores the operand ports, a
cycle with `rst = 1` or in `RUN` ignores `start` too; and every value of every input in every state has a rule. -/
def Obligations.IgnoredInputsHaveNoEffect : Prop :=
  (∀ c : Cause, c.code ≤ 4) ∧
    (∀ (s : State) (x y : Inputs) (rest : List Inputs), x.rst = y.rst →
      (x.rst = true ∨ s.phase = .run ∨ (x.start = false ∧ y.start = false)) →
      step { s with inputs := x :: rest } = step { s with inputs := y :: rest }) ∧
    ∀ s : State, ∃ t : State, step s = .next t

/-- 40_command_start.md R109: in `RUN` with `rst = 0` the cycle is a STEP whatever the host asks, the request leaves no
trace, and what ends the run is closure or the ceiling. -/
def Obligations.StartDuringARunIsIgnored : Prop :=
  ∀ s : State, s.phase = .run → (currentInputs s).rst = false →
    step s = exec .step (advanceInputs s) ∧
    (∀ (x y : Inputs) (rest : List Inputs), s.inputs = x :: rest → y.rst = false →
      step s = step { s with inputs := y :: rest }) ∧
    ∀ t : State, step s = .next t → t.phase = .run ∨ (t.phase = .done ∧ t.reg = t.seed) ∨
      (t.phase = .err ∧ t.cause = .noClosure ∧ s.count + 1 = 2 ^ s.width - 1)

/-- 30_encoding.md section 1, the port `ready`, against the selection: it is 1 exactly when a START asked for now would
be performed. -/
def Obligations.ReadyMeansAStartIsAccepted : Prop :=
  ∀ (s : State) (x : Inputs) (rest : List Inputs), x.rst = false → x.start = true →
    ((ports s).ready = true ↔
      ∃ seed taps width, decodeWord s.cfg (fetched { s with inputs := x :: rest }) = .start seed taps width)

/-- 30_encoding.md R75 to R77 and 10_state.md section 5: the code tables, every output port as its function of the
state, and the fields of the `STATUS` view, which hold `EMIT`, `CAUSE` and `PHASE` and tell their values apart. -/
def Obligations.StatusViewHoldsTheFlags : Prop :=
  (Phase.code .idle = 0 ∧ Phase.code .run = 1 ∧ Phase.code .done = 2 ∧ Phase.code .err = 3) ∧
    (Cause.code .none = 0 ∧ Cause.code .invalidSeed = 1 ∧ Cause.code .invalidWidth = 2 ∧
      Cause.code .invalidTap = 3 ∧ Cause.code .noClosure = 4) ∧
    (∀ s : State, (ports s).phase = s.phase.code ∧ (ports s).cause = s.cause.code ∧
      ((ports s).ready = true ↔ s.phase ≠ .run) ∧ ((ports s).done = true ↔ s.phase = .done) ∧
      ((ports s).err = true ↔ s.phase = .err) ∧ (ports s).count = s.count ∧ (ports s).outValid = s.emit ∧
      (ports s).outState = s.reg ∧ ((ports s).outLast = true ↔ s.emit = true ∧ s.phase = .done)) ∧
    ∀ s : State, status s < 64 ∧ (status s).testBit 5 = s.emit ∧ field (status s) 2 3 = s.cause.code ∧
    field (status s) 0 2 = s.phase.code ∧
    ∀ t : State, status t = status s → t.emit = s.emit ∧ t.cause = s.cause ∧ t.phase = s.phase

/-! ## Invariants and whole-machine rules -/

/-- 10_state.md section 7 at reset, on every instance. -/
def Obligations.ResetStateMeetsTheInvariants : Prop :=
  Inv State.reset ∧ ∀ (c : Config) (l : List Inputs), c.ok → Inv { State.reset with cfg := c, inputs := l }

/-- 10_state.md section 7 ("The following hold in every state reachable from reset"): every cycle keeps them, whatever
the host drives. -/
def Obligations.EveryCycleKeepsTheInvariants : Prop :=
  ∀ s t : State, Inv s → step s = .next t → Inv t

/-- 10_state.md sections 2 and 4: from any state whose registers hold values of their widths, a cycle gives such a
state, in states no run reaches too; and no cycle changes the instance. -/
def Obligations.EveryCycleKeepsTheRegisterWidths : Prop :=
  ∀ s t : State, Fits s → step s = .next t → Fits t ∧ t.cfg = s.cfg

/-- 60_exceptions.md section 5, "No fatal state": a run left alone by `rst` ends within the transitions that remain
below its ceiling, in `DONE` or in `ERR` with `NoClosure`. -/
def Obligations.EveryRunEnds : Prop :=
  ∀ s : State, Inv s → s.phase = .run → NoReset s →
    ∃ k t, 1 ≤ k ∧ s.count + k ≤ 2 ^ s.width - 1 ∧ runFor k s = .next t ∧
      (t.phase = .done ∨ (t.phase = .err ∧ t.cause = .noClosure)) ∧ t.count = s.count + k

/-- 20_memory.md section 4: what the host collects from the accepted START on, taking `out_state` whenever `out_valid`
is 1, is the trajectory; and `out_last` marks a closing element, which is the seed. -/
def Obligations.TheStreamIsTheTrajectory : Prop :=
  (∀ (k : Nat) (s t : State) (x : Inputs) (rest : List Inputs), s.inputs = x :: rest → s.phase ≠ .run →
    x.rst = false → x.start = true → AsksNothingFor k { s with inputs := rest } → runFor (k + 1) s = .next t →
    collected (k + 1) s = t.traj) ∧
    ∀ s : State, Inv s → (ports s).outLast = true →
      (ports s).outState = s.seed ∧ s.traj.getLast? = some s.seed ∧ (ports s).phase = 2

/-- 20_memory.md section 1, "No operation reads `TRAJ`": another trajectory in its place changes nothing but the
trajectory. -/
def Obligations.NoOperationReadsTheTrajectory : Prop :=
  ∀ (i : Instr) (s t : State) (m : List Nat), exec i s = .next t →
    ∃ u : State, exec i { s with traj := m } = .next u ∧ { u with traj := [] } = { t with traj := [] }

/-- 10_state.md section 5, the writers of the flags (an inference of the spec's): an operation's effect on the
registers and the trajectory does not depend on `PHASE`, `CAUSE` or `EMIT`. -/
def Obligations.NoOperationReadsTheFlags : Prop :=
  ∀ (i : Instr) (s t : State) (p : Phase) (c : Cause) (b : Bool), exec i s = .next t →
    ∃ u : State, exec i { s with phase := p, cause := c, emit := b } = .next u ∧
      { u with phase := .idle, cause := .none, emit := false } =
        { t with phase := .idle, cause := .none, emit := false }

/-- 20_memory.md section 3: the tap set and the width (and the seed) of a run cannot change during it. -/
def Obligations.TheRunsOperandsAreFixed : Prop :=
  ∀ (k : Nat) (s t : State), NoReset s →
    (∀ j < k, ∀ u : State, runFor j s = .next u → u.phase = .run) → runFor k s = .next t →
    t.width = s.width ∧ t.seed = s.seed ∧ t.taps = s.taps ∧ t.cfg = s.cfg

/-- 10_state.md section 2, the writers of `PHASE`: RESET gives `IDLE`, START `RUN` or `ERR`, STEP in a run `RUN`, `DONE`
or `ERR`, NOP keeps it; so `DONE` is entered by a STEP only. -/
def Obligations.PhaseChangesOnlyAsListed : Prop :=
  (∀ s t : State, exec .reset s = .next t → t.phase = .idle) ∧
    (∀ (s t : State) (seed taps width : Nat), exec (.start seed taps width) s = .next t →
      t.phase = .run ∨ t.phase = .err) ∧
    (∀ s t : State, exec .nop s = .next t → t.phase = s.phase) ∧
    (∀ s t : State, s.phase = .run → exec .step s = .next t → t.phase = .run ∨ t.phase = .done ∨ t.phase = .err) ∧
    ∀ s t : State, step s = .next t → t.phase = .done → s.phase ≠ .done → s.phase = .run ∧ t.reg = s.seed

/-- 60_exceptions.md section 6, the counter: cleared by RESET and START, incremented by exactly one per STEP and never
wrapped, kept by NOP. -/
def Obligations.CountCountsTransitions : Prop :=
  ∀ s t : State, Inv s → step s = .next t →
    t.count < 2 ^ t.cfg.wmax ∧ (ports t).count = t.count ∧
    t.count =
      (if (currentInputs s).rst = true then 0
       else if s.phase = .run then s.count + 1
       else if (currentInputs s).start = true then 0
       else s.count)

/-! ## The whole run -/

/-- 42_run_semantics.md section 1, the correspondence between the levels (an inference of the spec's), and the cycles
of section 3: the engine carries out `simulate`, whatever the host asks short of `rst`. -/
def Obligations.TheEngineCarriesOutSimulate : Prop :=
  ∀ (s : State) (seed taps width : Nat), (Instr.start seed taps width).wellFormed s.cfg = true → NoReset s →
    ∃ t0 : State, exec (.start seed taps width) s = .next t0 ∧
      match simulate s.cfg.wmax seed (decodeTaps s.cfg.wmax taps) width with
      | .error e =>
        t0.phase = .err ∧ t0.cause = e.toCause ∧ t0.traj = [] ∧ t0.count = 0 ∧ t0.emit = false
      | .closed traj L =>
        (∀ j < L, ∃ u : State, runFor j t0 = .next u ∧ u.phase = .run ∧ u.emit = true ∧ u.count = j) ∧
        ∃ t : State, runFor L t0 = .next t ∧ t.phase = .done ∧ t.cause = .none ∧ t.count = L ∧ t.traj = traj ∧
          t.reg = seed ∧ (ports t).outLast = true ∧ (ports t).ready = true
      | .noClosure pref K =>
        K = 2 ^ width - 1 ∧
        (∀ j < K, ∃ u : State, runFor j t0 = .next u ∧ u.phase = .run ∧ u.emit = true ∧ u.count = j) ∧
        ∃ t : State, runFor K t0 = .next t ∧ t.phase = .err ∧ t.cause = .noClosure ∧ t.count = K ∧
          t.traj = pref ∧ t.reg = seqAt seed (decodeTaps s.cfg.wmax taps) width K ∧ (ports t).outLast = false

/-- 42_run_semantics.md section 1 (an inference of the spec's): every state of the sequence of a run with valid
operands is below `2^width`. -/
def Obligations.TheSequenceStaysInTheRegister : Prop :=
  ∀ (wmax seed : Nat) (taps : List Nat) (w : Nat), validate wmax seed taps w = none →
    ∀ k, seqAt seed taps w k < 2 ^ w

/-- 42_run_semantics.md R164: the trajectory of a closing run is `[s_0, ..., s_L]`, from the seed to the first
repeated occurrence of the seed, of length `L + 1`; for `L = 1` it is `[seed, seed]`. -/
def Obligations.ATrajectoryRunsFromSeedToSeed : Prop :=
  ∀ (wmax seed : Nat) (taps : List Nat) (w : Nat) (traj : List Nat) (L : Nat),
    simulate wmax seed taps w = .closed traj L →
    1 ≤ L ∧ traj = (List.range (L + 1)).map (seqAt seed taps w) ∧ traj.length = L + 1 ∧
    traj.head? = some seed ∧ traj.getLast? = some seed ∧ (∀ k, 1 ≤ k → k < L → seqAt seed taps w k ≠ seed) ∧
    (L = 1 → traj = [seed, seed])

/-- 42_run_semantics.md R169: in a closing run the elements before the last are pairwise distinct; in a non-closing run
states repeat without the seed recurring. -/
def Obligations.AClosingRunIsInjectiveUntilClosure : Prop :=
  (∀ (wmax seed : Nat) (taps : List Nat) (w : Nat) (traj : List Nat) (L : Nat),
    simulate wmax seed taps w = .closed traj L → (traj.take L).Nodup) ∧
    ∀ (wmax seed : Nat) (taps : List Nat) (w : Nat), validate wmax seed taps w = none →
      (∀ k, 1 ≤ k → seqAt seed taps w k ≠ seed) →
      ∃ i j, 1 ≤ i ∧ i < j ∧ seqAt seed taps w i = seqAt seed taps w j

/-- 42_run_semantics.md section 2, the closure criterion (an inference of the spec's): which runs close, and that the
cycle length is the period of the seed's upper bits under `g`. -/
def Obligations.WhichRunsClose : Prop :=
  ∀ (wmax seed : Nat) (taps : List Nat) (w : Nat), 2 ≤ w → validate wmax seed taps w = none →
    ((∃ k, 1 ≤ k ∧ seqAt seed taps w k = seed) ↔ closureParity seed taps w = false) ∧
    ((simulate wmax seed taps w).isClosed = true ↔ closureParity seed taps w = false) ∧
    ∀ traj L, simulate wmax seed taps w = .closed traj L →
      (fun u => upperNext u taps w)^[L] (upper seed) = upper seed ∧
      ∀ k, 1 ≤ k → k < L → (fun u => upperNext u taps w)^[k] (upper seed) ≠ upper seed

/-- 42_run_semantics.md section 2, the bounds (an inference of the spec's): the sharp bound on a cycle length, and that
a run stopped at the ceiling never closes, so that the ceiling cuts no closing run short; and a closing run never
visits 0. -/
def Obligations.TheCeilingCutsNoClosingRunShort : Prop :=
  ∀ (wmax seed : Nat) (taps : List Nat) (w : Nat),
    (∀ traj L, simulate wmax seed taps w = .closed traj L →
      2 ≤ w ∧ 1 ≤ L ∧ L ≤ 2 ^ (w - 1) - 1 ∧ (0 : Nat) ∉ traj) ∧
    ∀ pref K, simulate wmax seed taps w = .noClosure pref K →
      K = 2 ^ w - 1 ∧ pref.length = 2 ^ w ∧ ∀ k, 1 ≤ k → seqAt seed taps w k ≠ seed

/-- 42_run_semantics.md section 2 (an inference of the spec's): exactly `2^(w-1) - 1` of the legal seeds close, for
every tap set. -/
def Obligations.HalfOfTheSeedsClose : Prop :=
  ∀ (wmax : Nat) (taps : List Nat) (w : Nat), 2 ≤ w → w ≤ wmax → (∀ t ∈ taps, 2 ≤ t ∧ t ≤ w) →
    ((List.range (2 ^ w)).filter fun seed => (simulate wmax seed taps w).isClosed).length = 2 ^ (w - 1) - 1

/-- 42_run_semantics.md R175: with `width = 1` the only valid operands are seed 1 and no taps, and the single STEP ends
in `NoClosure` with `TRAJ = [1, 0]` and `COUNT = 1`. -/
def Obligations.WidthOneEndsInNoClosure : Prop :=
  (∀ (c : Config), c.ok → ∀ (seed : Nat) (taps : List Nat),
    validate c.wmax seed taps 1 = none ↔ seed = 1 ∧ taps = []) ∧
    (acc 1 [] = 1 ∧ fb 1 [] = 0 ∧ seqAt 1 [] 1 1 = 0) ∧
    (∀ (c : Config), c.ok → simulate c.wmax 1 [] 1 = .noClosure [1, 0] 1) ∧
    ∀ s : State, s.cfg.ok → ∃ t0 t : State, exec (.start 1 0 1) s = .next t0 ∧ t0.phase = .run ∧
      exec .step t0 = .next t ∧ t.phase = .err ∧ t.cause = .noClosure ∧ t.traj = [1, 0] ∧ t.count = 1 ∧ t.reg = 0

/-! ## The pseudo-operations -/

/-- 30_encoding.md section 5, `IDLE n` and `WAIT`: `IDLE n` is `n` cycles with `rst = 0` and `start = 0`. In the states
of 10_state.md R37, `WAIT` sees no ready cycle before its last, its last is ready, and its requests, driven before
whatever the host drives later, lead to exactly that cycle. That the bound of the wait (log 19) suffices is part of
the statement. -/
def Obligations.WaitEndsInTheFirstReadyCycle : Prop :=
  (∀ n : Nat, (idleFor n).length = n ∧ ∀ x ∈ idleFor n, x.rst = false ∧ x.start = false) ∧
    ∀ s : State, Inv s →
      (wait s).head? = some s ∧ (∀ u ∈ (wait s).dropLast, (ports u).ready = false) ∧
      (∀ x ∈ waitRequests s, x.start = false) ∧
      ∃ u : State, (wait s).getLast? = some u ∧ (ports u).ready = true ∧ u.inputs = s.inputs ∧
        runFor (waitRequests s).length { s with inputs := waitRequests s ++ s.inputs } = .next u

/-- 30_encoding.md sections 5 and 6: `SIMULATE` is GFL's `simulate`. From any state in which a START is accepted, on
operands the ports can carry, the host reads, in the first ready cycle, what `simulate` returns; and its requests are
the START and then `start = 0` in every cycle before that one. -/
def Obligations.SimulatePseudoOperationReadsSimulate : Prop :=
  ∀ (s : State) (seed : Nat) (taps : List Nat) (width : Nat), s.phase ≠ .run → seed < 2 ^ s.cfg.wmax →
    width < 2 ^ s.cfg.wb → taps.Pairwise (· < ·) → (∀ p ∈ taps, 1 ≤ p ∧ p ≤ s.cfg.wmax) →
    match simulate s.cfg.wmax seed taps width with
    | .error e =>
      simulatePseudo seed taps width s = some ⟨3, e.toCause.code, 0, []⟩ ∧
        simulateRequests seed taps width s = [Inputs.startWith seed taps width]
    | .closed traj L =>
      simulatePseudo seed taps width s = some ⟨2, 0, L, traj⟩ ∧
        simulateRequests seed taps width s = Inputs.startWith seed taps width :: idleFor L
    | .noClosure pref K =>
      simulatePseudo seed taps width s = some ⟨3, 4, K, pref⟩ ∧
        simulateRequests seed taps width s = Inputs.startWith seed taps width :: idleFor K
end

