-- ==== Sys2Proof/Laws/Word.lean ====
section
/-! SUPPORT. What `trunc`, `bitlen` and `field` do. -/

namespace Sys2Proof

theorem trunc_lt (n : Nat) (v : Nat) : trunc n v < 2 ^ n := Nat.mod_lt _ (Nat.two_pow_pos n)

theorem trunc_of_lt {n : Nat} {v : Nat} (h : v < 2 ^ n) : trunc n v = v := Nat.mod_eq_of_lt h

@[simp] theorem trunc_zero (n : Nat) : trunc n 0 = 0 := Nat.zero_mod _

@[simp] theorem trunc_trunc (n : Nat) (v : Nat) : trunc n (trunc n v) = trunc n v := Nat.mod_mod _ _

theorem testBit_trunc (n : Nat) (v : Nat) (i : Nat) :
    (trunc n v).testBit i = (decide (i < n) && v.testBit i) := Nat.testBit_mod_two_pow _ _ _

theorem lt_two_pow_bitlen (v : Nat) : v < 2 ^ bitlen v := by
  unfold bitlen
  split
  · next h => simp [h]
  · exact Nat.lt_log2_self

/-- Every legal width can be presented on `width_in` (30_encoding.md R72). -/
theorem Config.lt_two_pow_wb (c : Config) {w : Nat} (h : w ≤ c.wmax) : w < 2 ^ c.wb :=
  lt_of_le_of_lt h (lt_two_pow_bitlen c.wmax)

theorem field_lt (w lo len : Nat) : field w lo len < 2 ^ len := trunc_lt _ _

theorem testBit_field (w lo len i : Nat) :
    (field w lo len).testBit i = (decide (i < len) && w.testBit (lo + i)) := by
  rw [field, testBit_trunc, Nat.testBit_shiftRight]

/-- The lowest field of a number put together from a low part and the rest. -/
theorem field_zero_add_mul (n a b : Nat) (h : a < 2 ^ n) : field (a + 2 ^ n * b) 0 n = a := by
  simp [field, trunc, Nat.mod_eq_of_lt h]

/-- A higher field of it is a field of the rest. -/
theorem field_add_mul (n lo len a b : Nat) (h : a < 2 ^ n) :
    field (a + 2 ^ n * b) (n + lo) len = field b lo len := by
  rw [field, field, Nat.shiftRight_add, Nat.shiftRight_eq_div_pow _ n,
    Nat.add_mul_div_left _ _ (Nat.two_pow_pos n), Nat.div_eq_of_lt h, Nat.zero_add]

end Sys2Proof
end

