-- ==== Sys2Proof/Laws/Decode.lean ====
section
/-! SUPPORT. What the operand fields and the fetched word hold, and what the decoder reads from it. -/

namespace Sys2Proof

variable (c : Config)

/-! ## The operand fields -/

theorem operandWord_lt (seed taps width : Nat) : operandWord c seed taps width < 2 ^ operandBits c := by
  have hs := trunc_lt c.wmax seed
  have hm := trunc_lt c.wmax taps
  have hw := trunc_lt c.wb width
  unfold operandWord operandBits
  generalize trunc c.wmax seed = a at *
  generalize trunc c.wmax taps = b at *
  generalize trunc c.wb width = d at *
  have inner : b + 2 ^ c.wmax * d < 2 ^ (c.wmax + c.wb) := by
    rw [pow_add]
    calc b + 2 ^ c.wmax * d < 2 ^ c.wmax * (d + 1) := by rw [Nat.mul_succ]; omega
      _ ≤ 2 ^ c.wmax * 2 ^ c.wb := Nat.mul_le_mul_left _ hw
  calc a + 2 ^ c.wmax * (b + 2 ^ c.wmax * d)
      < 2 ^ c.wmax * (b + 2 ^ c.wmax * d + 1) := by rw [Nat.mul_succ]; omega
    _ ≤ 2 ^ c.wmax * 2 ^ (c.wmax + c.wb) := Nat.mul_le_mul_left _ inner
    _ = 2 ^ (2 * c.wmax + c.wb) := by rw [← pow_add]; congr 1; omega

@[simp] theorem field_operandWord_seed (seed taps width : Nat) :
    field (operandWord c seed taps width) 0 c.wmax = trunc c.wmax seed :=
  field_zero_add_mul _ _ _ (trunc_lt _ _)

@[simp] theorem field_operandWord_taps (seed taps width : Nat) :
    field (operandWord c seed taps width) c.wmax c.wmax = trunc c.wmax taps := by
  have h := field_add_mul c.wmax 0 c.wmax (trunc c.wmax seed)
    (trunc c.wmax taps + 2 ^ c.wmax * trunc c.wb width) (trunc_lt _ _)
  rw [Nat.add_zero, field_zero_add_mul _ _ _ (trunc_lt _ _)] at h
  exact h

@[simp] theorem field_operandWord_width (seed taps width : Nat) :
    field (operandWord c seed taps width) (2 * c.wmax) c.wb = trunc c.wb width := by
  have h := field_add_mul c.wmax c.wmax c.wb (trunc c.wmax seed)
    (trunc c.wmax taps + 2 ^ c.wmax * trunc c.wb width) (trunc_lt _ _)
  have h' := field_add_mul c.wmax 0 c.wb (trunc c.wmax taps) (trunc c.wb width) (trunc_lt _ _)
  rw [Nat.add_zero] at h'
  rw [two_mul, operandWord, h, h', field]
  simp

/-! ## A selector with operand fields above it -/

/-- A selector in bits 2 to 0 with the operand fields from bit 3 on. -/
def selAndOperands (sel seed taps width : Nat) : Nat := sel + 8 * operandWord c seed taps width

theorem selAndOperands_lt {sel : Nat} (h : sel < 8) (seed taps width : Nat) :
    selAndOperands c sel seed taps width < 2 ^ fetchBits c := by
  have := operandWord_lt c seed taps width
  unfold selAndOperands fetchBits
  rw [pow_add]
  omega

theorem field_selAndOperands_sel {sel : Nat} (h : sel < 8) (seed taps width : Nat) :
    field (selAndOperands c sel seed taps width) 0 3 = sel :=
  field_zero_add_mul 3 _ _ h

theorem field_selAndOperands {sel : Nat} (h : sel < 8) (seed taps width lo len : Nat) :
    field (selAndOperands c sel seed taps width) (3 + lo) len = field (operandWord c seed taps width) lo len :=
  field_add_mul 3 lo len _ _ h

/-- What the decoder reads from a selector with operand fields above it. -/
theorem decodeWord_selAndOperands {sel : Nat} (h : sel < 8) (seed taps width : Nat) :
    decodeWord c (selAndOperands c sel seed taps width) =
      match selectOp sel with
      | .reset => .reset
      | .step => .step
      | .start => .start (trunc c.wmax seed) (trunc c.wmax taps) (trunc c.wb width)
      | .nop => .nop := by
  have h0 := field_selAndOperands c h seed taps width 0 c.wmax
  rw [Nat.add_zero] at h0
  unfold decodeWord
  rw [field_selAndOperands_sel c h, h0, field_selAndOperands c h, field_selAndOperands c h]
  cases selectOp sel <;> simp

/-! ## The fetched word -/

theorem selWord_lt (rst run start : Bool) : selWord rst run start < 8 := by
  cases rst <;> cases run <;> cases start <;> decide

/-- The selection of 30_encoding.md R78 on the three signals themselves. -/
theorem selectOp_selWord (rst run start : Bool) :
    selectOp (selWord rst run start) =
      if rst then .reset else if run then .step else if start then .start else .nop := by
  cases rst <;> cases run <;> cases start <;> decide

/-- The decoder on the word of a cycle. -/
theorem decodeWord_fetchWord (run : Bool) (x : Inputs) :
    decodeWord c (fetchWord c run x) =
      if x.rst then .reset
      else if run then .step
      else if x.start then .start (trunc c.wmax x.seedIn) (trunc c.wmax x.tapsIn) (trunc c.wb x.widthIn)
      else .nop := by
  refine (decodeWord_selAndOperands c (selWord_lt _ _ _) _ _ _).trans ?_
  rw [selectOp_selWord]
  cases x.rst <;> cases run <;> cases x.start <;> rfl

theorem fetchWord_lt (run : Bool) (x : Inputs) : fetchWord c run x < 2 ^ fetchBits c :=
  selAndOperands_lt c (selWord_lt _ _ _) _ _ _

end Sys2Proof
end

