-- ==== Sys2Proof/Laws/Operands.lean ====
section
/-! SUPPORT. What the tap mask holds and what each outcome of `validate` says. -/

namespace Sys2Proof.Machine

/-- Position `p` is in the set exactly when wire `p - 1` of the mask is 1 (30_encoding.md R73). -/
theorem mem_decodeTaps {wmax : Nat} {mask : Nat} {p : Nat} :
    p ∈ decodeTaps wmax mask ↔ 1 ≤ p ∧ p ≤ wmax ∧ mask.testBit (p - 1) = true := by
  constructor
  · intro h
    simp only [decodeTaps, List.mem_map, List.mem_filter, List.mem_range] at h
    obtain ⟨i, ⟨hi, hb⟩, rfl⟩ := h
    exact ⟨by omega, by omega, by simpa using hb⟩
  · rintro ⟨h1, h2, h3⟩
    simp only [decodeTaps, List.mem_map, List.mem_filter, List.mem_range]
    exact ⟨p - 1, ⟨by omega, h3⟩, by omega⟩

/-- `Ok` (40_command_start.md R103): all three tests pass. -/
theorem validate_eq_none {wmax seed : Nat} {taps : List Nat} {width : Nat} :
    validate wmax seed taps width = none ↔
      (1 ≤ width ∧ width ≤ wmax) ∧ (1 ≤ seed ∧ seed < 2 ^ width) ∧ ∀ t ∈ taps, 2 ≤ t ∧ t ≤ width := by
  unfold validate
  split
  · next h => simp only [reduceCtorEq, false_iff]; omega
  · next h =>
    split
    · next h' => simp only [reduceCtorEq, false_iff]; omega
    · next h' =>
      split
      · next h'' =>
        simp only [reduceCtorEq, false_iff]
        rintro ⟨-, -, hall⟩
        obtain ⟨t, ht, hbad⟩ := h''
        have := hall t ht
        omega
      · next h'' =>
        simp only [true_iff]
        refine ⟨by omega, by omega, fun t ht => ?_⟩
        have : ¬(t < 2 ∨ width < t) := fun hbad => h'' ⟨t, ht, hbad⟩
        omega

/-- `validate` finds one of the three input errors, never `NoClosure` (60_exceptions.md R193). -/
theorem validate_ne_noClosure {wmax seed : Nat} {taps : List Nat} {width : Nat} :
    validate wmax seed taps width ≠ some .noClosure := by
  unfold validate
  split
  · simp
  · split
    · simp
    · split <;> simp

end Sys2Proof.Machine
end

