-- ==== Sys2Proof/Laws/State.lean ====
section
/-! SUPPORT. One lemma per field per update, so that no proof unfolds a record update. -/

namespace Sys2Proof.Machine

variable (s : State)

/-! ## `setPhase` -/

@[simp] theorem setPhase_cfg (p : Phase) : (setPhase p s).cfg = s.cfg := rfl
@[simp] theorem setPhase_inputs (p : Phase) : (setPhase p s).inputs = s.inputs := rfl
@[simp] theorem setPhase_phase (p : Phase) : (setPhase p s).phase = p := rfl
@[simp] theorem setPhase_cause (p : Phase) : (setPhase p s).cause = s.cause := rfl
@[simp] theorem setPhase_width (p : Phase) : (setPhase p s).width = s.width := rfl
@[simp] theorem setPhase_seed (p : Phase) : (setPhase p s).seed = s.seed := rfl
@[simp] theorem setPhase_taps (p : Phase) : (setPhase p s).taps = s.taps := rfl
@[simp] theorem setPhase_reg (p : Phase) : (setPhase p s).reg = s.reg := rfl
@[simp] theorem setPhase_count (p : Phase) : (setPhase p s).count = s.count := rfl
@[simp] theorem setPhase_emit (p : Phase) : (setPhase p s).emit = s.emit := rfl
@[simp] theorem setPhase_traj (p : Phase) : (setPhase p s).traj = s.traj := rfl

/-! ## `setCause` -/

@[simp] theorem setCause_cfg (c : Cause) : (setCause c s).cfg = s.cfg := rfl
@[simp] theorem setCause_inputs (c : Cause) : (setCause c s).inputs = s.inputs := rfl
@[simp] theorem setCause_phase (c : Cause) : (setCause c s).phase = s.phase := rfl
@[simp] theorem setCause_cause (c : Cause) : (setCause c s).cause = c := rfl
@[simp] theorem setCause_width (c : Cause) : (setCause c s).width = s.width := rfl
@[simp] theorem setCause_seed (c : Cause) : (setCause c s).seed = s.seed := rfl
@[simp] theorem setCause_taps (c : Cause) : (setCause c s).taps = s.taps := rfl
@[simp] theorem setCause_reg (c : Cause) : (setCause c s).reg = s.reg := rfl
@[simp] theorem setCause_count (c : Cause) : (setCause c s).count = s.count := rfl
@[simp] theorem setCause_emit (c : Cause) : (setCause c s).emit = s.emit := rfl
@[simp] theorem setCause_traj (c : Cause) : (setCause c s).traj = s.traj := rfl

/-! ## `setEmit` -/

@[simp] theorem setEmit_cfg (b : Bool) : (setEmit b s).cfg = s.cfg := rfl
@[simp] theorem setEmit_inputs (b : Bool) : (setEmit b s).inputs = s.inputs := rfl
@[simp] theorem setEmit_phase (b : Bool) : (setEmit b s).phase = s.phase := rfl
@[simp] theorem setEmit_cause (b : Bool) : (setEmit b s).cause = s.cause := rfl
@[simp] theorem setEmit_width (b : Bool) : (setEmit b s).width = s.width := rfl
@[simp] theorem setEmit_seed (b : Bool) : (setEmit b s).seed = s.seed := rfl
@[simp] theorem setEmit_taps (b : Bool) : (setEmit b s).taps = s.taps := rfl
@[simp] theorem setEmit_reg (b : Bool) : (setEmit b s).reg = s.reg := rfl
@[simp] theorem setEmit_count (b : Bool) : (setEmit b s).count = s.count := rfl
@[simp] theorem setEmit_emit (b : Bool) : (setEmit b s).emit = b := rfl
@[simp] theorem setEmit_traj (b : Bool) : (setEmit b s).traj = s.traj := rfl

/-! ## `latchOperands` -/

@[simp] theorem latchOperands_cfg (w v m : Nat) : (latchOperands w v m s).cfg = s.cfg := rfl
@[simp] theorem latchOperands_inputs (w v m : Nat) : (latchOperands w v m s).inputs = s.inputs := rfl
@[simp] theorem latchOperands_phase (w v m : Nat) : (latchOperands w v m s).phase = s.phase := rfl
@[simp] theorem latchOperands_cause (w v m : Nat) : (latchOperands w v m s).cause = s.cause := rfl
@[simp] theorem latchOperands_width (w v m : Nat) : (latchOperands w v m s).width = trunc s.cfg.wb w := rfl
@[simp] theorem latchOperands_seed (w v m : Nat) : (latchOperands w v m s).seed = trunc s.cfg.wmax v := rfl
@[simp] theorem latchOperands_taps (w v m : Nat) : (latchOperands w v m s).taps = trunc s.cfg.wmax m := rfl
@[simp] theorem latchOperands_reg (w v m : Nat) : (latchOperands w v m s).reg = s.reg := rfl
@[simp] theorem latchOperands_count (w v m : Nat) : (latchOperands w v m s).count = s.count := rfl
@[simp] theorem latchOperands_emit (w v m : Nat) : (latchOperands w v m s).emit = s.emit := rfl
@[simp] theorem latchOperands_traj (w v m : Nat) : (latchOperands w v m s).traj = s.traj := rfl

/-! ## `writeReg` -/

@[simp] theorem writeReg_cfg (v : Nat) : (writeReg v s).cfg = s.cfg := rfl
@[simp] theorem writeReg_inputs (v : Nat) : (writeReg v s).inputs = s.inputs := rfl
@[simp] theorem writeReg_phase (v : Nat) : (writeReg v s).phase = s.phase := rfl
@[simp] theorem writeReg_cause (v : Nat) : (writeReg v s).cause = s.cause := rfl
@[simp] theorem writeReg_width (v : Nat) : (writeReg v s).width = s.width := rfl
@[simp] theorem writeReg_seed (v : Nat) : (writeReg v s).seed = s.seed := rfl
@[simp] theorem writeReg_taps (v : Nat) : (writeReg v s).taps = s.taps := rfl
@[simp] theorem writeReg_reg (v : Nat) : (writeReg v s).reg = trunc s.cfg.wmax v := rfl
@[simp] theorem writeReg_count (v : Nat) : (writeReg v s).count = s.count := rfl
@[simp] theorem writeReg_emit (v : Nat) : (writeReg v s).emit = s.emit := rfl
@[simp] theorem writeReg_traj (v : Nat) : (writeReg v s).traj = s.traj := rfl

/-! ## `writeCount` -/

@[simp] theorem writeCount_cfg (k : Nat) : (writeCount k s).cfg = s.cfg := rfl
@[simp] theorem writeCount_inputs (k : Nat) : (writeCount k s).inputs = s.inputs := rfl
@[simp] theorem writeCount_phase (k : Nat) : (writeCount k s).phase = s.phase := rfl
@[simp] theorem writeCount_cause (k : Nat) : (writeCount k s).cause = s.cause := rfl
@[simp] theorem writeCount_width (k : Nat) : (writeCount k s).width = s.width := rfl
@[simp] theorem writeCount_seed (k : Nat) : (writeCount k s).seed = s.seed := rfl
@[simp] theorem writeCount_taps (k : Nat) : (writeCount k s).taps = s.taps := rfl
@[simp] theorem writeCount_reg (k : Nat) : (writeCount k s).reg = s.reg := rfl
@[simp] theorem writeCount_count (k : Nat) : (writeCount k s).count = trunc s.cfg.wmax k := rfl
@[simp] theorem writeCount_emit (k : Nat) : (writeCount k s).emit = s.emit := rfl
@[simp] theorem writeCount_traj (k : Nat) : (writeCount k s).traj = s.traj := rfl

/-! ## `trajAppend` -/

@[simp] theorem trajAppend_cfg (v : Nat) : (trajAppend v s).cfg = s.cfg := rfl
@[simp] theorem trajAppend_inputs (v : Nat) : (trajAppend v s).inputs = s.inputs := rfl
@[simp] theorem trajAppend_phase (v : Nat) : (trajAppend v s).phase = s.phase := rfl
@[simp] theorem trajAppend_cause (v : Nat) : (trajAppend v s).cause = s.cause := rfl
@[simp] theorem trajAppend_width (v : Nat) : (trajAppend v s).width = s.width := rfl
@[simp] theorem trajAppend_seed (v : Nat) : (trajAppend v s).seed = s.seed := rfl
@[simp] theorem trajAppend_taps (v : Nat) : (trajAppend v s).taps = s.taps := rfl
@[simp] theorem trajAppend_reg (v : Nat) : (trajAppend v s).reg = s.reg := rfl
@[simp] theorem trajAppend_count (v : Nat) : (trajAppend v s).count = s.count := rfl
@[simp] theorem trajAppend_emit (v : Nat) : (trajAppend v s).emit = true := rfl
@[simp] theorem trajAppend_traj (v : Nat) : (trajAppend v s).traj = Memory.append s.traj (trunc s.cfg.wmax v) := rfl

/-! ## `trajClear` -/

@[simp] theorem trajClear_cfg : (trajClear s).cfg = s.cfg := rfl
@[simp] theorem trajClear_inputs : (trajClear s).inputs = s.inputs := rfl
@[simp] theorem trajClear_phase : (trajClear s).phase = s.phase := rfl
@[simp] theorem trajClear_cause : (trajClear s).cause = s.cause := rfl
@[simp] theorem trajClear_width : (trajClear s).width = s.width := rfl
@[simp] theorem trajClear_seed : (trajClear s).seed = s.seed := rfl
@[simp] theorem trajClear_taps : (trajClear s).taps = s.taps := rfl
@[simp] theorem trajClear_reg : (trajClear s).reg = s.reg := rfl
@[simp] theorem trajClear_count : (trajClear s).count = s.count := rfl
@[simp] theorem trajClear_emit : (trajClear s).emit = s.emit := rfl
@[simp] theorem trajClear_traj : (trajClear s).traj = [] := rfl

/-! ## `advanceInputs` -/

@[simp] theorem advanceInputs_cfg : (advanceInputs s).cfg = s.cfg := rfl
@[simp] theorem advanceInputs_inputs : (advanceInputs s).inputs = s.inputs.tail := rfl
@[simp] theorem advanceInputs_phase : (advanceInputs s).phase = s.phase := rfl
@[simp] theorem advanceInputs_cause : (advanceInputs s).cause = s.cause := rfl
@[simp] theorem advanceInputs_width : (advanceInputs s).width = s.width := rfl
@[simp] theorem advanceInputs_seed : (advanceInputs s).seed = s.seed := rfl
@[simp] theorem advanceInputs_taps : (advanceInputs s).taps = s.taps := rfl
@[simp] theorem advanceInputs_reg : (advanceInputs s).reg = s.reg := rfl
@[simp] theorem advanceInputs_count : (advanceInputs s).count = s.count := rfl
@[simp] theorem advanceInputs_emit : (advanceInputs s).emit = s.emit := rfl
@[simp] theorem advanceInputs_traj : (advanceInputs s).traj = s.traj := rfl

/-! ## `placeWord` -/

@[simp] theorem placeWord_cfg (w : Nat) : (placeWord s w).cfg = s.cfg := rfl
@[simp] theorem placeWord_inputs (w : Nat) : (placeWord s w).inputs = inputsOfFetch s.cfg w :: s.inputs.tail := rfl
@[simp] theorem placeWord_phase (w : Nat) : (placeWord s w).phase = phaseFor (fetchRun w) s.phase := rfl
@[simp] theorem placeWord_cause (w : Nat) : (placeWord s w).cause = s.cause := rfl
@[simp] theorem placeWord_width (w : Nat) : (placeWord s w).width = s.width := rfl
@[simp] theorem placeWord_seed (w : Nat) : (placeWord s w).seed = s.seed := rfl
@[simp] theorem placeWord_taps (w : Nat) : (placeWord s w).taps = s.taps := rfl
@[simp] theorem placeWord_reg (w : Nat) : (placeWord s w).reg = s.reg := rfl
@[simp] theorem placeWord_count (w : Nat) : (placeWord s w).count = s.count := rfl
@[simp] theorem placeWord_emit (w : Nat) : (placeWord s w).emit = s.emit := rfl
@[simp] theorem placeWord_traj (w : Nat) : (placeWord s w).traj = s.traj := rfl

end Sys2Proof.Machine
end

