-- ==== Sys2Proof/Laws/Ops.lean ====
section
/-! SUPPORT. What each shared operation does, once: the trajectory, the error entry, the ports. -/

namespace Sys2Proof.Machine

/-! ## The trajectory -/

theorem Memory.read_append_of_lt (m : List Nat) (v : Nat) {k : Nat} (h : k < m.length) :
    Memory.read (Memory.append m v) k = Memory.read m k := by
  simp [Memory.read, Memory.append, List.getElem?_append_left h]

@[simp] theorem Memory.read_append_length (m : List Nat) (v : Nat) :
    Memory.read (Memory.append m v) m.length = some v := by
  simp [Memory.read, Memory.append]

@[simp] theorem Memory.length_append (m : List Nat) (v : Nat) :
    (Memory.append m v).length = m.length + 1 := by
  simp [Memory.append]

theorem Memory.wf_nil (c : Config) : Memory.wf c [] := fun _ h => absurd h List.not_mem_nil

theorem Memory.wf_append {c : Config} {m : List Nat} {v : Nat} (h : Memory.wf c m) (hv : v < 2 ^ c.wmax) :
    Memory.wf c (Memory.append m v) := by
  intro x hx
  simp only [Memory.append, List.mem_append, List.mem_singleton] at hx
  rcases hx with hx | rfl
  · exact h x hx
  · exact hv

theorem reset_traj_wf : Memory.wf State.reset.cfg State.reset.traj := Memory.wf_nil _

theorem trajClear_wf (s : State) : Memory.wf (trajClear s).cfg (trajClear s).traj := Memory.wf_nil _

/-- `TrajAppend` keeps the trajectory's form, whatever it is given. -/
theorem trajAppend_wf {s : State} (v : Nat) (h : Memory.wf s.cfg s.traj) :
    Memory.wf (trajAppend v s).cfg (trajAppend v s).traj :=
  Memory.wf_append h (trunc_lt _ _)

/-! ## Error entry -/

/-- Error entry by the ceiling keeps everything STEP wrote (60_exceptions.md R196). -/
theorem raise_noClosure (s : State) :
    raise .noClosure s = { s with phase := .err, cause := .noClosure } := rfl

/-- Error entry by an input error (60_exceptions.md R196). -/
theorem raise_input {e : ErrorCause} (h : e ≠ .noClosure) (s : State) :
    raise e s = { s with phase := .err, cause := e.toCause, reg := 0, count := 0, emit := false, traj := [] } := by
  cases e with
  | noClosure => exact absurd rfl h
  | invalidSeed => simp [raise, clearRun, setCause, setPhase, trajClear, setEmit, writeCount, writeReg]
  | invalidWidth => simp [raise, clearRun, setCause, setPhase, trajClear, setEmit, writeCount, writeReg]
  | invalidTap => simp [raise, clearRun, setCause, setPhase, trajClear, setEmit, writeCount, writeReg]

/-- No exception leaves `CAUSE = None`. -/
theorem ErrorCause.toCause_ne_none (e : ErrorCause) : e.toCause ≠ .none := by
  cases e <;> decide

/-! ## The input ports -/

@[simp] theorem currentInputs_nil {s : State} (h : s.inputs = []) : currentInputs s = Inputs.idle := by
  simp [currentInputs, h]

@[simp] theorem currentInputs_cons {s : State} {x : Inputs} {rest : List Inputs} (h : s.inputs = x :: rest) :
    currentInputs s = x := by
  simp [currentInputs, h]

end Sys2Proof.Machine
end

