-- ==== Sys2Proof/Laws/PerInstr.lean ====
section
/-! SUPPORT. The per-instruction families: facts about an operation as syntax, one lemma per constructor. -/

/-! ## `EncodeFits`: the encoder's word has a bit only where the instance has a wire. -/

namespace Sys2Proof.Laws.EncodeFits

def Statement (i : Instr) : Prop := ∀ c : Config, encode c i < 2 ^ fetchBits c

/-- A bare selector fits. -/
theorem sel_lt (c : Config) {sel : Nat} (h : sel < 8) : sel < 2 ^ fetchBits c := by
  rw [fetchBits, pow_add]
  have := Nat.two_pow_pos (operandBits c)
  omega

theorem reset : Statement .reset := fun c => sel_lt c (by decide : 4 < 8)

theorem step : Statement .step := fun c => sel_lt c (by decide : 2 < 8)

theorem start (seed taps width : Nat) : Statement (.start seed taps width) := fun c =>
  selAndOperands_lt c (by decide : 1 < 8) seed taps width

theorem nop : Statement .nop := fun c => sel_lt c (by decide : 0 < 8)

end Sys2Proof.Laws.EncodeFits

/-! ## `EncodeMatchesItsRow`: the encoder's selector matches the row of 30_encoding.md R78 that bears the operation. -/

namespace Sys2Proof.Laws.EncodeMatchesItsRow

/-- The operation of an instruction, without its operands. -/
def opOf : Instr → Op
  | .reset => .reset
  | .step => .step
  | .start _ _ _ => .start
  | .nop => .nop

def Statement (i : Instr) : Prop :=
  ∀ c : Config, ∃ r ∈ opTable, r.op = opOf i ∧ r.selects (field (encode c i) 0 3) = true

theorem reset : Statement .reset := fun _ => ⟨⟨.reset, 0b100, 0b100⟩, by decide, rfl, by
  show OpRow.selects _ (field 4 0 3) = true
  decide⟩

theorem step : Statement .step := fun _ => ⟨⟨.step, 0b110, 0b010⟩, by decide, rfl, by
  show OpRow.selects _ (field 2 0 3) = true
  decide⟩

theorem start (seed taps width : Nat) : Statement (.start seed taps width) := fun c =>
  ⟨⟨.start, 0b111, 0b001⟩, by decide, rfl, by
    have h := field_selAndOperands_sel c (by decide : 1 < 8) seed taps width
    rw [show encode c (.start seed taps width) = selAndOperands c 1 seed taps width from rfl, h]
    decide⟩

theorem nop : Statement .nop := fun _ => ⟨⟨.nop, 0b111, 0b000⟩, by decide, rfl, by
  show OpRow.selects _ (field 0 0 3) = true
  decide⟩

end Sys2Proof.Laws.EncodeMatchesItsRow
end

