-- ==== Sys2Proof/Laws/Step.lean ====
section
/-! SUPPORT. Each operation as one equation on the whole state, and what a cycle can do. -/

namespace Sys2Proof.Machine

/-! ## The operations -/

theorem execReset_eq (s : State) :
    execReset s = .next
      { cfg := s.cfg, inputs := s.inputs, phase := .idle, cause := .none, width := 0, seed := 0, taps := 0,
        reg := 0, count := 0, emit := false, traj := [] } := by
  simp [execReset, clearRun, setPhase, setCause, latchOperands, trajClear, setEmit, writeCount, writeReg]

theorem execNop_eq (s : State) : execNop s = .next { s with emit := false } := rfl

/-- START with operands that `validate` refuses. -/
theorem execStart_of_some {s : State} {seed taps width : Nat} {e : ErrorCause}
    (h : validate s.cfg.wmax (trunc s.cfg.wmax seed) (decodeTaps s.cfg.wmax (trunc s.cfg.wmax taps))
      (trunc s.cfg.wb width) = some e) :
    execStart seed taps width s = .next
      { cfg := s.cfg, inputs := s.inputs, phase := .err, cause := e.toCause, width := trunc s.cfg.wb width,
        seed := trunc s.cfg.wmax seed, taps := trunc s.cfg.wmax taps, reg := 0, count := 0, emit := false,
        traj := [] } := by
  have he : e ≠ .noClosure := fun h' => validate_ne_noClosure (h' ▸ h)
  simp [execStart, startWith, h, raise_input he, trajClear, latchOperands]

/-- START with operands that `validate` passes. -/
theorem execStart_of_none {s : State} {seed taps width : Nat}
    (h : validate s.cfg.wmax (trunc s.cfg.wmax seed) (decodeTaps s.cfg.wmax (trunc s.cfg.wmax taps))
      (trunc s.cfg.wb width) = none) :
    execStart seed taps width s = .next
      { cfg := s.cfg, inputs := s.inputs, phase := .run, cause := .none, width := trunc s.cfg.wb width,
        seed := trunc s.cfg.wmax seed, taps := trunc s.cfg.wmax taps, reg := trunc s.cfg.wmax seed, count := 0,
        emit := true, traj := [trunc s.cfg.wmax seed] } := by
  simp [execStart, startWith, h, trajClear, latchOperands, trajAppend, Memory.append, writeCount, writeReg,
    setCause, setPhase]

/-- A STEP's value already has `REG`'s width. -/
@[simp] theorem trunc_stepValue (s : State) : trunc s.cfg.wmax (stepValue s) = stepValue s := trunc_trunc _ _

theorem stepValue_lt (s : State) : stepValue s < 2 ^ s.cfg.wmax := trunc_lt _ _

/-- With a width of at least 1 a STEP's value is the successor, on `REG`'s bits. -/
theorem stepValue_of_width_pos {s : State} (h : 1 ≤ s.width) :
    stepValue s = trunc s.cfg.wmax (next s.reg (decodeTaps s.cfg.wmax s.taps) s.width) := by
  rw [stepValue, if_neg (by omega)]

/-- What a STEP has written before it compares. -/
def stepWritten (s : State) : State :=
  { s with
    reg := stepValue s, count := trunc s.cfg.wmax (s.count + 1), emit := true, traj := s.traj ++ [stepValue s] }

/-- STEP as its writes and one of its three exits (41_transition_step.md R136 to R138). -/
theorem execStep_eq (s : State) :
    execStep s = .next
      (if stepValue s = s.seed then { stepWritten s with phase := .done }
       else if s.count + 1 = 2 ^ s.width - 1 then { stepWritten s with phase := .err, cause := .noClosure }
       else stepWritten s) := by
  have h : trajAppend (stepValue s) (writeCount (s.count + 1) (writeReg (stepValue s) s)) = stepWritten s := by
    simp [trajAppend, Memory.append, writeCount, writeReg, stepWritten]
  rw [execStep, h, concludeStep, raise_noClosure]
  rfl

/-! ## A cycle -/

/-- What a cycle performs (30_encoding.md R78). -/
theorem step_eq (s : State) :
    step s =
      if (currentInputs s).rst = true then execReset (advanceInputs s)
      else if s.phase = .run then execStep (advanceInputs s)
      else if (currentInputs s).start = true then
        execStart (trunc s.cfg.wmax (currentInputs s).seedIn) (trunc s.cfg.wmax (currentInputs s).tapsIn)
          (trunc s.cfg.wb (currentInputs s).widthIn) (advanceInputs s)
      else execNop (advanceInputs s) := by
  rw [step, fetched, decodeWord_fetchWord]
  simp only [decide_eq_true_eq]
  split
  · rfl
  · split
    · rfl
    · split <;> rfl

/-- What a cycle can have done, if it answers `t`: a case for each operation, with what selected it. -/
theorem step_cases {s t : State} (h : step s = .next t) :
    ((currentInputs s).rst = true ∧ execReset (advanceInputs s) = .next t) ∨
    ((currentInputs s).rst = false ∧ s.phase = .run ∧ execStep (advanceInputs s) = .next t) ∨
    ((currentInputs s).rst = false ∧ s.phase ≠ .run ∧ (currentInputs s).start = true ∧
      execStart (trunc s.cfg.wmax (currentInputs s).seedIn) (trunc s.cfg.wmax (currentInputs s).tapsIn)
        (trunc s.cfg.wb (currentInputs s).widthIn) (advanceInputs s) = .next t) ∨
    ((currentInputs s).rst = false ∧ s.phase ≠ .run ∧ (currentInputs s).start = false ∧
      execNop (advanceInputs s) = .next t) := by
  rw [step_eq] at h
  split at h
  · next h1 => exact .inl ⟨h1, h⟩
  · next h1 =>
    have h1 : (currentInputs s).rst = false := by simpa using h1
    split at h
    · next h2 => exact .inr (.inl ⟨h1, h2, h⟩)
    · next h2 =>
      split at h
      · next h3 => exact .inr (.inr (.inl ⟨h1, h2, h3, h⟩))
      · next h3 => exact .inr (.inr (.inr ⟨h1, h2, by simpa using h3, h⟩))

/-! ## Several cycles -/

@[simp] theorem runFor_zero (s : State) : runFor 0 s = .next s := rfl

theorem runFor_succ {s t : State} (k : Nat) (h : step s = .next t) : runFor (k + 1) s = runFor k t := by
  rw [runFor, h]

/-- `runFor` is the host's `run`. -/
theorem runFor_eq_run (k : Nat) (s : State) : runFor k s = Host.Core.run Sys2Proof.core k s := by
  induction k generalizing s with
  | zero => rfl
  | succ k ih =>
    cases h : step s with
    | next t =>
      rw [runFor_succ k h, ih t]
      have h' : Sys2Proof.core.step s = .next t := h
      simp only [Host.Core.run, h']
      rfl
    | fault r => exact nomatch r
    | refused r =>
      have h' : Sys2Proof.core.step s = .refused r := h
      simp only [runFor, Host.Core.run, h, h']
      rfl

end Sys2Proof.Machine
end

