-- ==== Sys2Proof/Laws/Requests.lean ====
section
/-! SUPPORT. What the host's side of a pseudo-operation does in one cycle. -/

namespace Sys2Proof.Machine

theorem ports_ready_eq_true {s : State} : (ports s).ready = true ↔ s.phase ≠ .run := by
  simp [ports]

theorem ports_ready_eq_false {s : State} : (ports s).ready = false ↔ s.phase = .run := by
  simp [ports]

/-- A cycle in which the host drives `start = 0` and `rst = 0`: a STEP in a run, a NOP outside one; what the host
drives later stays. -/
theorem drive_idle (s : State) :
    drive Inputs.idle s = if s.phase = .run then execStep s else execNop s := by
  rw [drive, step_eq]
  simp [currentInputs, advanceInputs, Inputs.idle]

/-- A cycle in which the host drives a START, outside a run. -/
theorem drive_startWith {s : State} (h : s.phase ≠ .run) (seed : Nat) (taps : List Nat) (width : Nat) :
    drive (Inputs.startWith seed taps width) s =
      execStart (trunc s.cfg.wmax seed) (trunc s.cfg.wmax (encodeTaps taps)) (trunc s.cfg.wb width) s := by
  rw [drive, step_eq]
  simp [currentInputs, advanceInputs, Inputs.startWith, h]

/-- A wait that is ready at once takes no cycle. -/
theorem untilReady_of_ready {s : State} (h : (ports s).ready = true) (bound : Nat) : untilReady bound s = [s] := by
  cases bound with
  | zero => rfl
  | succ n => rw [untilReady, if_pos h]

/-- A wait in a run goes on from the state the next STEP leaves. -/
theorem untilReady_of_run {s t : State} (h : s.phase = .run) (ht : execStep s = .next t) (bound : Nat) :
    untilReady (bound + 1) s = s :: untilReady bound t := by
  have hr : ¬(ports s).ready = true := by simp [ports_ready_eq_true, h]
  rw [untilReady, if_neg hr, drive_idle, if_pos h, ht]

/-- The states of a wait begin with the one it starts in. -/
theorem untilReady_head (bound : Nat) (s : State) : (untilReady bound s).head? = some s := by
  cases bound with
  | zero => rfl
  | succ n =>
    rw [untilReady]
    split
    · rfl
    · split <;> rfl

/-- The reading of cycles whose last is ready. -/
theorem readingOf_of_last {seen : List State} {u : State} (hu : seen.getLast? = some u)
    (hr : (ports u).ready = true) :
    readingOf seen = some ⟨u.phase.code, u.cause.code, u.count, seen.flatMap shownElement⟩ := by
  rw [readingOf, hu]
  exact if_pos hr

end Sys2Proof.Machine
end

