-- ==== Sys2Proof/Laws/Transition.lean ====
section
/-! SUPPORT. The small equations of the transition function and of the run. -/

namespace Sys2Proof.Machine

@[simp] theorem xorOver_nil (f : Nat → Nat) : xorOver [] f = 0 := rfl

@[simp] theorem xorOver_cons (t : Nat) (ts : List Nat) (f : Nat → Nat) :
    xorOver (t :: ts) f = f t ^^^ xorOver ts f := rfl

@[simp] theorem xorBits_nil (f : Nat → Bool) : xorBits [] f = false := rfl

@[simp] theorem xorBits_cons (t : Nat) (ts : List Nat) (f : Nat → Bool) :
    xorBits (t :: ts) f = Bool.xor (f t) (xorBits ts f) := rfl

/-- Bit `i` of `XOR{ f(t) }` is the exclusive OR of the bits `i` of the `f(t)`. -/
theorem testBit_xorOver (ts : List Nat) (f : Nat → Nat) (i : Nat) :
    (xorOver ts f).testBit i = xorBits ts fun t => (f t).testBit i := by
  induction ts with
  | nil => simp
  | cons t ts ih => rw [xorOver_cons, xorBits_cons, Nat.testBit_xor, ih]

/-- The empty tap set leaves the register itself (41_transition_step.md R131). -/
@[simp] theorem acc_nil (r : Nat) : acc r [] = r := by simp [acc]

/-- `fb` is the accumulator's bit index 1, as a number. -/
theorem fb_eq_toNat (r : Nat) (ts : List Nat) : fb r ts = ((acc r ts).testBit 1).toNat := by
  rw [fb, Nat.and_one_is_mod, Nat.shiftRight_eq_div_pow, Nat.testBit_eq_decide_div_mod_eq]
  rcases Nat.mod_two_eq_zero_or_one (acc r ts / 2 ^ 1) with h | h <;> rw [h] <;> rfl

@[simp] theorem seqAt_zero (seed : Nat) (ts : List Nat) (w : Nat) : seqAt seed ts w 0 = seed := rfl

theorem seqAt_succ (seed : Nat) (ts : List Nat) (w k : Nat) :
    seqAt seed ts w (k + 1) = next (seqAt seed ts w k) ts w := rfl

end Sys2Proof.Machine
end

