-- ==== Sys2Proof/Machine/Text.lean ====
section
/-! DEFINITION. The textual syntax for traces (30_encoding.md R83): what the host asks in a cycle and what the engine
does. No operation reads it. -/

namespace Sys2Proof.Machine

/-- `{p, p, ...}`, the empty set `{}`: numbers in decimal. -/
def tapsText (taps : List Nat) : String :=
  String.singleton (Char.ofNat 123) ++ String.intercalate ", " (taps.map toString) ++ String.singleton (Char.ofNat 125)

/-- The host's request of a cycle, on the ports' wires: `RESET`, `START seed=..., taps=..., width=...` or `NOP`. -/
def requestText (c : Config) (x : Inputs) : String :=
  if x.rst then "RESET"
  else if x.start then
    "START seed=" ++ toString (trunc c.wmax x.seedIn) ++ ", taps=" ++ tapsText (decodeTaps c.wmax x.tapsIn) ++
      ", width=" ++ toString (trunc c.wb x.widthIn)
  else "NOP"

/-- The line of this cycle: the request first and, where the engine performs a STEP, that after `=>`. A START presented
in `RUN` is marked ignored. -/
def traceLine (s : State) : String :=
  let x := currentInputs s
  if x.rst = false ∧ s.phase = .run then
    requestText s.cfg x ++ (if x.start then " => STEP (ignored)" else " => STEP")
  else requestText s.cfg x

end Sys2Proof.Machine
end

