-- ==== Sys2Proof/Tests/Slice0.lean ====
section
/-! SUPPORT. The model's own tests, and for every statement with hypotheses a witness that meets them. Expected values
are those of 95_test_vectors.md and of the rules' own examples (`WMAX = 16`). -/

open Sys2Proof Sys2Proof.Machine

namespace Sys2Proof.Tests

/-! ## WellFormed refuses an ill-formed term, by each of its checks -/

theorem test_wellFormed_seed : (Instr.start 0x10000 0 4).wellFormed ⟨16⟩ = false := by decide
theorem test_wellFormed_taps : (Instr.start 2 0x10000 4).wellFormed ⟨16⟩ = false := by decide
theorem test_wellFormed_width : (Instr.start 2 0 32).wellFormed ⟨16⟩ = false := by decide
theorem test_wellFormed_accepts : (Instr.start 0xFFFF 0xFFFF 31).wellFormed ⟨16⟩ = true := by decide

/-! ## Words written out from 30_encoding.md R74 and R78: `width`, `taps`, `seed`, `SEL` -/

theorem test_decode_start : decode ⟨16⟩ 0b00100_0000000000000100_0000000000000010_001 = .instr (.start 2 0x0004 4) := by
  decide
theorem test_decode_start_top_wires :
    decode ⟨16⟩ 0b10000_1000000000000000_1000000000000001_001 = .instr (.start 0x8001 0x8000 16) := by decide
theorem test_decode_reset : [0b100, 0b101, 0b110, 0b111].map (decodeWord ⟨16⟩) = [.reset, .reset, .reset, .reset] := by
  decide
theorem test_decode_step : [0b010, 0b011].map (decodeWord ⟨16⟩) = [.step, .step] := by decide
theorem test_decode_nop : decode ⟨16⟩ 0b00100_0000000000000100_0000000000000010_000 = .instr .nop := by decide
theorem test_decode_rejects : decode ⟨16⟩ (2 ^ 40) = .rejected .bitBeyondWord := by decide
/-- 95_test_vectors.md VA1. -/
theorem test_bundle : bundleOf ⟨16⟩ (Inputs.startWith 2 [3] 4) = 0x2400040002 := by decide
/-- 95_test_vectors.md V-S2. -/
theorem test_bundle_ports : inputsOfBundle ⟨16⟩ false 0x301806AE1F = Inputs.startWith 0xAE1F [13, 12, 2, 3] 16 := by
  decide

/-! ## The transition function (95_test_vectors.md, section 3) -/

/-- VB1, GFL's own computed transition. -/
theorem test_next_VB1 : next 0b0001 [3] 4 = 0 := by decide
/-- VB17: the accumulator tells the taps' shifts apart. -/
theorem test_acc_VB17 : acc 0b10110 [2, 5] = 0b11100 ∧ next 0b10110 [2, 5] 5 = 0b01011 := by decide
/-- VB19, GFL's second scenario. -/
theorem test_next_VB19 : acc 0xAE1F [13, 12, 2, 3] = 0xD288 ∧ next 0xAE1F [13, 12, 2, 3] 16 = 0x570F := by decide

/-! ## The operations -/

/-- The state of an outcome. -/
def after : Host.Outcome State Fault Refusal → State
  | .next t => t
  | .fault _ => State.reset
  | .refused _ => State.reset

/-- A run at `WMAX = 16`, as START has left it or some STEPs later. -/
def inRun (width seed taps reg count : Nat) (traj : List Nat) : State :=
  { State.reset with
    phase := .run, width := width, seed := seed, taps := taps, reg := reg, count := count, emit := true, traj := traj }

/-- 40_command_start.md R102's example, from an engine in `ERR`. -/
theorem test_start_runs :
    exec (.start 2 0x0004 4) { State.reset with phase := .err, cause := .invalidTap, width := 9 } =
      .next (inRun 4 2 0x0004 2 0 [2]) := by rfl
/-- 95_test_vectors.md VA6, VA7, VA3, VA10, VA13, VA18: the causes and their order. -/
theorem test_start_causes :
    ([(.start 0 1 0), (.start 2 4 17), (.start 0x10 4 4), (.start 0x10 0x10 4), (.start 2 0x10 4), (.start 1 2 1)] :
      List Instr).map (fun i => (after (exec i State.reset)).cause) =
      [.invalidWidth, .invalidWidth, .invalidSeed, .invalidSeed, .invalidTap, .invalidTap] := by decide
/-- 95_test_vectors.md VC1 and VC2. -/
theorem test_step_continue_closure :
    after (exec .step (inRun 4 2 4 2 0 [2])) = { inRun 4 2 4 9 1 [2, 9] with emit := true } ∧
      after (exec .step (inRun 4 2 4 5 6 [2, 9, 12, 14, 7, 11, 5])) =
        { inRun 4 2 4 2 7 [2, 9, 12, 14, 7, 11, 5, 2] with phase := .done } := by decide
/-- 95_test_vectors.md VC3 and VC5. -/
theorem test_step_ceiling :
    after (exec .step (inRun 4 1 4 0 14 [])) =
        { inRun 4 1 4 0 15 [0] with phase := .err, cause := .noClosure } ∧
      after (exec .step (inRun 1 1 0 1 0 [1])) =
        { inRun 1 1 0 0 1 [1, 0] with phase := .err, cause := .noClosure } := by decide
/-- 40_command_start.md R100's example. -/
theorem test_nop :
    after (exec .nop { inRun 4 2 4 2 7 [2, 9] with phase := .done }) =
      { inRun 4 2 4 2 7 [2, 9] with phase := .done, emit := false } := by decide
/-- 70_reset_and_hazards.md R220's example. -/
theorem test_reset : after (exec .reset (inRun 4 2 4 9 1 [2, 9])) = State.reset := by decide
/-- 95_test_vectors.md P3, cycle 8: a START presented in a run is a STEP. -/
theorem test_start_in_run_is_step :
    after (step { inRun 4 6 6 6 0 [6] with inputs := [Inputs.startWith 9 [3, 4] 4] }) =
      inRun 4 6 6 3 1 [6, 3] := by decide
/-- 95_test_vectors.md P5, cycle 4: `rst` beats `start`. -/
theorem test_rst_beats_start :
    after (step { inRun 4 2 4 12 2 [2, 9, 12] with inputs := [⟨true, true, 9, 4, 4⟩] }) = State.reset := by decide
/-- The first cycle after reset runs the word placed for it. -/
theorem test_placed_words :
    [0b000, 0b001, 0b100].map (fun w => (after (step (State.reset.withFetchWord 8 w))).phase) =
      [.idle, .err, .idle] := by decide
/-- 95_test_vectors.md P1 and VA13: the reading of a closing run, and of a refused START, which is ready at once. -/
theorem test_simulate_pseudo :
    simulatePseudo 2 [3] 4 State.reset = some ⟨2, 0, 7, [2, 9, 12, 14, 7, 11, 5, 2]⟩ ∧
      simulatePseudo 2 [5] 4 State.reset = some ⟨3, 3, 0, []⟩ ∧
      (simulateRequests 2 [3] 4 State.reset).length = 8 ∧ (simulateRequests 2 [5] 4 State.reset).length = 1 := by decide
/-- 95_test_vectors.md VC1 on the view of 10_state.md R32: `EMIT` 1, `CAUSE` 0, `PHASE` 1. -/
theorem test_status : status (inRun 4 2 4 9 1 [2, 9]) = 0b100001 := by decide
/-- 95_test_vectors.md, the width 4 table, and section 4's `taps = {2,3}`. -/
theorem test_simulate :
    simulate 16 2 [3] 4 = .closed [2, 9, 12, 14, 7, 11, 5, 2] 7 ∧
      simulate 16 6 [2, 3] 4 = .closed [6, 3, 9, 12, 6] 4 ∧ simulate 16 2 [] 2 = .noClosure [2, 3, 3, 3] 3 := by decide

/-- 95_test_vectors.md P3: a START that a run ignores; its `NOP ; => STEP` line; and its first START. -/
theorem test_trace_lines :
    traceLine { (inRun 4 2 4 2 0 [2]) with inputs := [⟨false, true, 9, 0, 4⟩] } =
        "START seed=9, taps=" ++ tapsText [] ++ ", width=4 => STEP (ignored)" ∧
      traceLine (inRun 4 2 4 2 0 [2]) = "NOP => STEP" ∧ traceLine { (inRun 4 2 4 2 0 [2]) with inputs := [Inputs.reset] } = "RESET" := by decide

/-! ## Witnesses: states that meet the invariants -/

/-- The run of 95_test_vectors.md P1 after its START. -/
def atStart : State := inRun 4 2 4 2 0 [2]
/-- The same run one STEP before it closes. -/
def beforeClosure : State := inRun 4 2 4 5 6 [2, 9, 12, 14, 7, 11, 5]
/-- The run of P2 one STEP before the ceiling. -/
def beforeCeiling : State := inRun 4 1 4 0 14 [1, 0, 0, 0, 0, 0, 0, 0, 0, 0, 0, 0, 0, 0, 0]
/-- P1's closed run, its last element on the port. -/
def closedRun : State := { inRun 4 2 4 2 7 [2, 9, 12, 14, 7, 11, 5, 2] with phase := .done }

theorem inv_reset : Inv State.reset :=
  ⟨by decide, by decide, by decide,
    ⟨by decide, by decide, by decide, by decide, by decide, by decide, by decide⟩, by decide⟩
theorem inv_atStart : Inv atStart :=
  ⟨by decide, by decide, by decide,
    ⟨by decide, by decide, by decide, by decide, by decide, by decide, by decide⟩, by decide⟩
theorem inv_beforeClosure : Inv beforeClosure :=
  ⟨by decide, by decide, by decide,
    ⟨by decide, by decide, by decide, by decide, by decide, by decide, by decide⟩, by decide⟩
theorem inv_beforeCeiling : Inv beforeCeiling :=
  ⟨by decide, by decide, by decide,
    ⟨by decide, by decide, by decide, by decide, by decide, by decide, by decide⟩, by decide⟩
theorem inv_closedRun : Inv closedRun :=
  ⟨by decide, by decide, by decide,
    ⟨by decide, by decide, by decide, by decide, by decide, by decide, by decide⟩, by decide⟩

/-! ## Witnesses: the hypotheses of the statements, clause by clause -/

theorem witness_RstHasPriorityOverEverything :
    (currentInputs { atStart with inputs := [⟨true, true, 9, 4, 4⟩] }).rst = true := by decide
theorem witness_ResetWritesEveryResetValue :
    (currentInputs { atStart with inputs := [Inputs.reset] }).rst = true ∧ exec .reset atStart = .next State.reset ∧ Inv State.reset ∧ State.reset.phase = .idle :=
  ⟨rfl, rfl, inv_reset, rfl⟩
theorem witness_NopWritesEmitOnly :
    State.reset.emit = false ∧ closedRun.phase ≠ .run ∧ (currentInputs closedRun).rst = false ∧
      (currentInputs closedRun).start = false := by decide
theorem witness_ResultIsHeldUntilTheNextCommand :
    closedRun.phase ≠ .run ∧
      AsksNothingFor (1 + 1) { closedRun with inputs := [Inputs.idle, Inputs.idle, Inputs.reset] } := by decide
/-- The widest legal operands (VA20) and the narrowest (VA17). -/
theorem witness_LegalStartBeginsRun :
    (1 ≤ 16 ∧ 16 ≤ State.reset.cfg.wmax ∧ 1 ≤ 0xFFFF ∧ 0xFFFF < 2 ^ 16 ∧ Nat.testBit 0xFFFE 0 = false ∧
      0xFFFE < 2 ^ 16) ∧
    (1 ≤ 1 ∧ 1 ≤ State.reset.cfg.wmax ∧ 1 ≤ 1 ∧ 1 < 2 ^ 1 ∧ Nat.testBit 0 0 = false ∧ 0 < 2 ^ 1) := by decide
theorem witness_StartCauseByPortLevelTests :
    (Instr.start 0xFFFF 0xFFFF 31).wellFormed State.reset.cfg = true ∧
      (Instr.start 0 0 0).wellFormed State.reset.cfg = true ∧
      (Instr.start 0x10 0x8 4).wellFormed State.reset.cfg = true := by decide
theorem witness_ErrorEntryLeavesThisState :
    ((Instr.start 2 0x10 4).wellFormed State.reset.cfg = true ∧
      validate State.reset.cfg.wmax 2 (decodeTaps State.reset.cfg.wmax 0x10) 4 = some .invalidTap) ∧
    (1 ≤ beforeCeiling.width ∧ beforeCeiling.width ≤ beforeCeiling.cfg.wmax ∧
      beforeCeiling.reg < 2 ^ beforeCeiling.width ∧ beforeCeiling.count + 1 = 2 ^ beforeCeiling.width - 1 ∧
      next beforeCeiling.reg (decodeTaps beforeCeiling.cfg.wmax beforeCeiling.taps) beforeCeiling.width ≠
        beforeCeiling.seed) ∧
    ({ beforeCeiling with phase := .err } : State).phase = .err ∧ (currentInputs beforeCeiling).rst = false ∧
      (currentInputs beforeCeiling).start = false := by decide
theorem witness_FunctionAndPortLevelAgreeOnOperands :
    (2 ^ Config.chosen.wb ≤ 32) ∧ (1 ≤ 16 ∧ 16 ≤ Config.chosen.wmax ∧ 2 ^ Config.chosen.wmax ≤ 0x10000) ∧
    (1 ≤ 1 ∧ 1 ≤ Config.chosen.wmax ∧ 1 ≤ 1 ∧ 1 < 2 ^ 1 ∧ ∃ t ∈ [2, 17], Config.chosen.wmax < t) ∧
    (0xFFFF < 2 ^ State.reset.cfg.wmax ∧ 31 < 2 ^ State.reset.cfg.wb ∧ [1, 2, 16].Pairwise (· < ·) ∧
      ∀ p ∈ [1, 2, 16], 1 ≤ p ∧ p ≤ State.reset.cfg.wmax) := by decide
theorem witness_StartForgetsTheOldState :
    closedRun.cfg = State.reset.cfg ∧ closedRun.inputs = State.reset.inputs ∧ closedRun ≠ State.reset := by decide
theorem witness_EqualStartsGiveEqualRuns :
    closedRun.cfg = State.reset.cfg ∧ closedRun.phase ≠ .run ∧ State.reset.phase ≠ .run ∧
      (Inputs.startWith 2 [3] 4).rst = false ∧ (Inputs.startWith 2 [3] 4).start = true := by decide
/-- One state for each exit: closure, ceiling, neither. -/
theorem witness_StepTransitionsAppendsAndCompares :
    (atStart.phase = .run ∧ (currentInputs atStart).rst = false) ∧
    (1 ≤ beforeClosure.width ∧ beforeClosure.width ≤ beforeClosure.cfg.wmax ∧
      beforeClosure.reg < 2 ^ beforeClosure.width ∧ beforeClosure.count < 2 ^ beforeClosure.width - 1 ∧
      next beforeClosure.reg (decodeTaps 16 beforeClosure.taps) beforeClosure.width = beforeClosure.seed) ∧
    (1 ≤ beforeCeiling.width ∧ beforeCeiling.width ≤ beforeCeiling.cfg.wmax ∧
      beforeCeiling.reg < 2 ^ beforeCeiling.width ∧ beforeCeiling.count < 2 ^ beforeCeiling.width - 1 ∧
      next beforeCeiling.reg (decodeTaps 16 beforeCeiling.taps) beforeCeiling.width ≠ beforeCeiling.seed ∧
      beforeCeiling.count + 1 = 2 ^ beforeCeiling.width - 1) ∧
    (1 ≤ atStart.width ∧ atStart.width ≤ atStart.cfg.wmax ∧ atStart.reg < 2 ^ atStart.width ∧
      atStart.count < 2 ^ atStart.width - 1 ∧
      next atStart.reg (decodeTaps 16 atStart.taps) atStart.width ≠ atStart.seed ∧
      atStart.count + 1 ≠ 2 ^ atStart.width - 1) := by decide
theorem witness_SuccessorBitByBit : 1 ≤ 1 ∧ 1 < 2 ^ 1 ∧ 1 ≤ 4 ∧ 15 < 2 ^ 4 ∧ 2 + 2 ≤ 4 := by decide
theorem witness_FeedbackClosedForm : ∀ t ∈ [2, 5], 1 ≤ t := by decide
theorem witness_ZeroIsAFixedPoint : validate 16 1 [3] 4 = none ∧ seqAt 1 [3] 4 1 = 0 := by decide
theorem witness_TapOrderIsUnobservable : [13, 12, 2, 3].Perm [2, 3, 12, 13] := by decide
theorem witness_TransitionIsTwoToOne :
    (2 ≤ 2 ∧ ∀ t ∈ [2], 2 ≤ t ∧ t ≤ 2) ∧ (2 ≤ 4 ∧ ∀ t ∈ [2, 3, 4], 2 ≤ t ∧ t ≤ 4) ∧ 9 < 2 ^ 4 ∧
      closureParity 9 [3] 4 = false := by decide
theorem witness_TapAtTheWidthContributesNothing : 1 ≤ 4 ∧ 15 < 2 ^ 4 ∧ 1 ≤ 1 ∧ 1 < 2 ^ 1 := by decide
theorem witness_UpperBitsAreAConventionalRegister :
    (2 ≤ 2 ∧ (∀ t ∈ [2], 2 ≤ t ∧ t ≤ 2) ∧ 3 < 2 ^ 2 ∧ 1 < 2 ^ (2 - 1)) ∧
      (2 ≤ 4 ∧ (∀ t ∈ [3, 4], 2 ≤ t ∧ t ≤ 4) ∧ 15 < 2 ^ 4 ∧ 7 < 2 ^ (4 - 1)) := by decide
theorem witness_DecodeOfEncodeIsTheOperation :
    (Instr.start 0xFFFF 0xFFFF 31).wellFormed ⟨16⟩ = true ∧ Instr.reset.wellFormed ⟨16⟩ = true ∧
      Instr.step.wellFormed ⟨16⟩ = true ∧ Instr.nop.wellFormed ⟨16⟩ = true := by decide
theorem witness_StepRunsTheDecodedOperation :
    decode atStart.cfg (fetched atStart) = .instr .step ∧ decode closedRun.cfg (fetched closedRun) = .instr .nop := by
  decide
theorem witness_PlacedWordIsFetched :
    0b011 < 2 ^ 8 ∧ 0b011 < 2 ^ fetchBits atStart.cfg ∧ (atStart.phase = .run ↔ Nat.testBit 0b011 1 = true) := by
  decide
theorem witness_CommandBundleIsThePorts :
    (0xFFFF < 2 ^ Config.chosen.wmax ∧ 0xFFFF < 2 ^ Config.chosen.wmax ∧ 31 < 2 ^ Config.chosen.wb) ∧
      0x3FFFFFFFFF < 2 ^ (2 * Config.chosen.wmax + Config.chosen.wb + 1) ∧
      Inputs.idle.rst = (⟨false, false, 9, 9, 9⟩ : Inputs).rst ∧ Inputs.idle.start = false := by decide
theorem witness_TapMaskIsTheSet :
    0xFFFF < 2 ^ 16 ∧ [1, 3, 16].Pairwise (· < ·) ∧ ∀ p ∈ [1, 3, 16], 1 ≤ p ∧ p ≤ 16 := by decide
theorem witness_IgnoredInputsHaveNoEffect :
    (Inputs.reset.rst = (⟨true, true, 1, 1, 1⟩ : Inputs).rst ∧ Inputs.reset.rst = true) ∧ atStart.phase = .run ∧
      Inputs.idle.start = false := by decide
theorem witness_StartDuringARunIsIgnored :
    atStart.phase = .run ∧ (currentInputs { atStart with inputs := [Inputs.startWith 9 [3] 4] }).rst = false ∧
      Inputs.idle.rst = false ∧ step beforeClosure = .next (after (step beforeClosure)) := ⟨rfl, rfl, rfl, rfl⟩
theorem witness_ReadyMeansAStartIsAccepted :
    (Inputs.startWith 2 [3] 4).rst = false ∧ (Inputs.startWith 2 [3] 4).start = true := by decide
theorem witness_StatusViewHoldsTheFlags : status atStart = status beforeClosure := by decide
theorem witness_ResetStateMeetsTheInvariants : Config.ok ⟨2⟩ := by decide
theorem witness_EveryCycleKeepsTheInvariants :
    Inv beforeClosure ∧ step beforeClosure = .next (after (step beforeClosure)) := ⟨inv_beforeClosure, rfl⟩
theorem witness_EveryCycleKeepsTheRegisterWidths :
    Fits atStart ∧ step atStart = .next (after (step atStart)) := ⟨by decide, rfl⟩
theorem witness_EveryRunEnds : Inv beforeCeiling ∧ beforeCeiling.phase = .run ∧ NoReset beforeCeiling :=
  ⟨inv_beforeCeiling, rfl, by decide⟩
/-- An engine in `IDLE` with P1's START in this cycle and nothing asked in the next. -/
def aboutToStart : State := { State.reset with inputs := [Inputs.startWith 2 [3] 4, Inputs.idle] }
theorem witness_TheStreamIsTheTrajectory :
    (aboutToStart.phase ≠ .run ∧ (Inputs.startWith 2 [3] 4).rst = false ∧
      (Inputs.startWith 2 [3] 4).start = true ∧ AsksNothingFor 1 { aboutToStart with inputs := [Inputs.idle] } ∧
      after (runFor (1 + 1) aboutToStart) = inRun 4 2 4 9 1 [2, 9]) ∧ (ports closedRun).outLast = true := by decide
theorem witness_NoOperationReadsTheTrajectory : exec .step atStart = .next (after (exec .step atStart)) := rfl
theorem witness_NoOperationReadsTheFlags :
    exec .step beforeCeiling = .next (after (exec .step beforeCeiling)) := rfl
theorem witness_TheRunsOperandsAreFixed :
    NoReset atStart ∧ (∀ j < 1, ∀ u : State, runFor j atStart = .next u → u.phase = .run) ∧
      runFor 1 atStart = .next (after (runFor 1 atStart)) := by
  refine ⟨by decide, fun j hj u hu => ?_, rfl⟩
  obtain rfl : j = 0 := by omega
  cases hu
  rfl
theorem witness_PhaseChangesOnlyAsListed :
    exec (.start 2 4 4) closedRun = .next (after (exec (.start 2 4 4) closedRun)) ∧
      (beforeClosure.phase = .run ∧ exec .step beforeClosure = .next (after (exec .step beforeClosure))) ∧
      (after (step beforeClosure)).phase = .done ∧ beforeClosure.phase ≠ .done :=
  ⟨rfl, ⟨rfl, rfl⟩, by decide, by decide⟩
theorem witness_CountCountsTransitions : Inv atStart ∧ step atStart = .next (after (step atStart)) :=
  ⟨inv_atStart, rfl⟩
/-- One set of operands for each result of `simulate`. -/
theorem witness_TheEngineCarriesOutSimulate :
    ((Instr.start 0 4 4).wellFormed State.reset.cfg = true ∧ (Instr.start 2 4 4).wellFormed State.reset.cfg = true ∧
      (Instr.start 2 0 2).wellFormed State.reset.cfg = true ∧ NoReset State.reset) ∧
      simulate 16 0 (decodeTaps 16 4) 4 = .error .invalidSeed ∧
      (simulate 16 2 (decodeTaps 16 4) 4).isClosed = true ∧
      simulate 16 2 (decodeTaps 16 0) 2 = .noClosure [2, 3, 3, 3] 3 := by decide
theorem witness_TheSequenceStaysInTheRegister : validate 16 0xFFFF [2, 16] 16 = none := by decide
theorem witness_ATrajectoryRunsFromSeedToSeed :
    simulate 16 15 [] 4 = .closed [15, 15] 1 ∧ simulate 16 5 [2, 3] 4 = .closed [5, 10, 5] 2 := by decide
theorem witness_AClosingRunIsInjectiveUntilClosure :
    simulate 16 5 [2, 3] 4 = .closed [5, 10, 5] 2 ∧ validate 16 1 [3] 4 = none ∧
      ∀ k, 1 ≤ k → seqAt 1 [3] 4 k ≠ 1 := by
  refine ⟨by decide, by decide, fun k hk => ?_⟩
  have h : ∀ n, seqAt 1 [3] 4 (n + 1) = 0 := fun n => by
    induction n with
    | zero => decide
    | succ n ih => rw [seqAt, ih]; decide
  obtain ⟨n, rfl⟩ : ∃ n, k = n + 1 := ⟨k - 1, by omega⟩
  rw [h n]
  decide
theorem witness_WhichRunsClose :
    2 ≤ 2 ∧ validate 16 3 [2] 2 = none ∧ simulate 16 3 [2] 2 = .closed [3, 3] 1 ∧ 2 ≤ 4 ∧
      simulate 16 5 [2, 3] 4 = .closed [5, 10, 5] 2 := by decide
theorem witness_TheCeilingCutsNoClosingRunShort :
    simulate 16 5 [2, 3] 4 = .closed [5, 10, 5] 2 ∧ simulate 16 1 [] 1 = .noClosure [1, 0] 1 := by decide
theorem witness_HalfOfTheSeedsClose : 2 ≤ 2 ∧ 2 ≤ 16 ∧ ∀ t ∈ [2], 2 ≤ t ∧ t ≤ 2 := by decide
theorem witness_WidthOneEndsInNoClosure : Config.ok ⟨2⟩ ∧ State.reset.cfg.ok := by decide
theorem witness_WaitEndsInTheFirstReadyCycle : Inv beforeClosure ∧ Inv closedRun := ⟨inv_beforeClosure, inv_closedRun⟩
/-- One set of operands for each result of `simulate`, from `IDLE` and from `DONE`. -/
theorem witness_SimulatePseudoOperationReadsSimulate :
    (State.reset.phase ≠ .run ∧ closedRun.phase ≠ .run ∧ 2 < 2 ^ State.reset.cfg.wmax ∧ 31 < 2 ^ State.reset.cfg.wb ∧
      [1, 3, 16].Pairwise (· < ·) ∧ ∀ p ∈ [1, 3, 16], 1 ≤ p ∧ p ≤ State.reset.cfg.wmax) ∧
      simulate 16 2 [1, 3, 16] 31 = .error .invalidWidth ∧ (simulate 16 2 [3] 4).isClosed = true ∧
      simulate 16 2 [] 2 = .noClosure [2, 3, 3, 3] 3 := by decide

end Sys2Proof.Tests
end

/-! # Proofs: 30_encoding.md, the selection, the command bundle, and the flags as the outside sees them -/

section
/-! ## The bits of the command bundle (30_encoding.md R74) -/

namespace Sys2Proof

/-- A field is determined by its bits. -/
theorem field_eq_trunc {w lo len v : Nat} (h : ∀ i < len, w.testBit (lo + i) = v.testBit i) :
    field w lo len = trunc len v := by
  refine Nat.eq_of_testBit_eq fun i => ?_
  rw [testBit_field, testBit_trunc]
  by_cases hi : i < len
  · rw [h i hi]
  · simp [hi]

/-- The operand fields bit by bit: each field holds its port's wires, and nothing stands above the last one. -/
theorem testBit_operandWord (c : Config) (seed taps width i : Nat) :
    (operandWord c seed taps width).testBit i =
      if i < c.wmax then seed.testBit i
      else if i < 2 * c.wmax then taps.testBit (i - c.wmax)
      else if i < operandBits c then width.testBit (i - 2 * c.wmax)
      else false := by
  rw [operandWord, Nat.add_comm, Nat.testBit_two_pow_mul_add _ (trunc_lt _ _), Nat.add_comm,
    Nat.testBit_two_pow_mul_add _ (trunc_lt _ _), testBit_trunc, testBit_trunc, testBit_trunc, operandBits]
  by_cases hs : i < c.wmax
  · simp [hs]
  by_cases ht : i < 2 * c.wmax
  · have : i - c.wmax < c.wmax := by omega
    simp [hs, ht, this]
  have hnt : ¬ i - c.wmax < c.wmax := by omega
  have hidx : i - c.wmax - c.wmax = i - 2 * c.wmax := by omega
  by_cases hw : i < 2 * c.wmax + c.wb
  · have : i - 2 * c.wmax < c.wb := by omega
    simp [hs, ht, hw, hnt, hidx, this]
  · have : ¬ i - 2 * c.wmax < c.wb := by omega
    simp [hs, ht, hw, hnt, hidx, this]

variable (c : Config) (x : Inputs)

/-- Below its `start` bit the bundle is the operand fields. -/
theorem testBit_bundleOf_of_lt {i : Nat} (h : i < operandBits c) :
    (bundleOf c x).testBit i = (operandWord c x.seedIn x.tapsIn x.widthIn).testBit i := by
  rw [bundleOf, Nat.add_comm, Nat.testBit_two_pow_mul_add _ (operandWord_lt _ _ _ _), if_pos h]

theorem testBit_bundleOf_seed {i : Nat} (h : i < c.wmax) :
    (bundleOf c x).testBit i = x.seedIn.testBit i := by
  rw [testBit_bundleOf_of_lt c x (by rw [operandBits]; omega), testBit_operandWord, if_pos h]

theorem testBit_bundleOf_taps {i : Nat} (h : i < c.wmax) :
    (bundleOf c x).testBit (c.wmax + i) = x.tapsIn.testBit i := by
  rw [testBit_bundleOf_of_lt c x (by rw [operandBits]; omega), testBit_operandWord, if_neg (by omega),
    if_pos (by omega), Nat.add_sub_cancel_left]

theorem testBit_bundleOf_width {i : Nat} (h : i < c.wb) :
    (bundleOf c x).testBit (2 * c.wmax + i) = x.widthIn.testBit i := by
  have hi : 2 * c.wmax + i < operandBits c := by rw [operandBits]; omega
  rw [testBit_bundleOf_of_lt c x hi, testBit_operandWord, if_neg (by omega), if_neg (by omega), if_pos hi,
    Nat.add_sub_cancel_left]

@[simp] theorem testBit_bundleOf_start : (bundleOf c x).testBit (operandBits c) = x.start := by
  rw [bundleOf, Nat.add_comm, Nat.testBit_two_pow_mul_add _ (operandWord_lt _ _ _ _), if_neg (lt_irrefl _),
    Nat.sub_self]
  cases x.start <;> rfl

theorem bundleOf_lt : bundleOf c x < 2 ^ (operandBits c + 1) := by
  have hop := operandWord_lt c x.seedIn x.tapsIn x.widthIn
  have hstart := Nat.mul_le_mul_left (2 ^ operandBits c) x.start.toNat_le
  rw [bundleOf, pow_succ]
  omega

theorem field_bundleOf_seed : field (bundleOf c x) 0 c.wmax = trunc c.wmax x.seedIn :=
  field_eq_trunc fun _ h => by rw [Nat.zero_add, testBit_bundleOf_seed c x h]

theorem field_bundleOf_taps : field (bundleOf c x) c.wmax c.wmax = trunc c.wmax x.tapsIn :=
  field_eq_trunc fun _ h => testBit_bundleOf_taps c x h

theorem field_bundleOf_width : field (bundleOf c x) (2 * c.wmax) c.wb = trunc c.wb x.widthIn :=
  field_eq_trunc fun _ h => testBit_bundleOf_width c x h

/-! ## The bundle and the ports determine each other -/

/-- Reading the ports back out of their bundle. -/
theorem inputsOfBundle_bundleOf {c : Config} {x : Inputs} (hs : x.seedIn < 2 ^ c.wmax) (ht : x.tapsIn < 2 ^ c.wmax)
    (hw : x.widthIn < 2 ^ c.wb) : inputsOfBundle c x.rst (bundleOf c x) = x := by
  rw [inputsOfBundle, testBit_bundleOf_start, field_bundleOf_seed, field_bundleOf_taps, field_bundleOf_width,
    trunc_of_lt hs, trunc_of_lt ht, trunc_of_lt hw]

/-- The operand fields of the ports a bundle stands for are its low bits. -/
theorem operandWord_fields (cb : Nat) :
    operandWord c (field cb 0 c.wmax) (field cb c.wmax c.wmax) (field cb (2 * c.wmax) c.wb) =
      trunc (operandBits c) cb := by
  refine Nat.eq_of_testBit_eq fun i => ?_
  rw [testBit_operandWord, testBit_trunc, testBit_field, testBit_field, testBit_field, operandBits]
  by_cases hs : i < c.wmax
  · have : i < 2 * c.wmax + c.wb := by omega
    simp [hs, this]
  by_cases ht : i < 2 * c.wmax
  · have hlen : i - c.wmax < c.wmax := by omega
    have hidx : c.wmax + (i - c.wmax) = i := by omega
    have : i < 2 * c.wmax + c.wb := by omega
    simp [hs, ht, hlen, hidx, this]
  by_cases hw : i < 2 * c.wmax + c.wb
  · have hlen : i - 2 * c.wmax < c.wb := by omega
    have hidx : 2 * c.wmax + (i - 2 * c.wmax) = i := by omega
    simp [hs, ht, hw, hlen, hidx]
  · simp [hs, ht, hw]

/-- A number of the bundle's length is its low bits with its top bit above them. -/
theorem trunc_add_top_bit {n v : Nat} (h : v < 2 ^ (n + 1)) : trunc n v + 2 ^ n * (v.testBit n).toNat = v := by
  have hq : v / 2 ^ n < 2 := Nat.div_lt_of_lt_mul (by rwa [← pow_succ])
  rw [Nat.toNat_testBit, Nat.mod_eq_of_lt hq]
  exact Nat.mod_add_div v (2 ^ n)

/-- Every number of the bundle's length is the bundle of the ports it stands for. -/
theorem bundleOf_inputsOfBundle {c : Config} {cb : Nat} (rst : Bool) (h : cb < 2 ^ (operandBits c + 1)) :
    bundleOf c (inputsOfBundle c rst cb) = cb := by
  rw [bundleOf, inputsOfBundle, operandWord_fields, trunc_add_top_bit h]

end Sys2Proof
end

section
/-! ## What a cycle reads of the ports (30_encoding.md R78, R81) -/

namespace Sys2Proof

/-- The rows of the table of 30_encoding.md R78 are disjoint and cover every `SEL`, in the order of the chain. -/
theorem opTable_selects_exactly_selectOp :
    ∀ sel < 8, (opTable.filter fun r => r.selects sel).map (·.op) = [selectOp sel] := by decide

end Sys2Proof

namespace Sys2Proof.Machine

/-- A cycle with its first inputs given: the operation they select, on the state that waits for the later ones. -/
theorem step_cons (s : State) (x : Inputs) (rest : List Inputs) :
    step { s with inputs := x :: rest } =
      if x.rst = true then execReset { s with inputs := rest }
      else if s.phase = .run then execStep { s with inputs := rest }
      else if x.start = true then
        execStart (trunc s.cfg.wmax x.seedIn) (trunc s.cfg.wmax x.tapsIn) (trunc s.cfg.wb x.widthIn)
          { s with inputs := rest }
      else execNop { s with inputs := rest } :=
  step_eq _

/-- The operand ports matter in a START only, and `start` in a cycle without `rst` outside a run only. -/
theorem step_ignores_ports (s : State) {x y : Inputs} (rest : List Inputs) (hrst : x.rst = y.rst)
    (h : x.rst = true ∨ s.phase = .run ∨ (x.start = false ∧ y.start = false)) :
    step { s with inputs := x :: rest } = step { s with inputs := y :: rest } := by
  rw [step_cons, step_cons, ← hrst]
  obtain hr | hrun | ⟨hx, hy⟩ := h
  · rw [if_pos hr, if_pos hr]
  · rw [if_pos hrun, if_pos hrun]
  · simp [hx, hy]

/-- Every operation answers a next state: nothing faults and nothing is refused (log 11). -/
theorem exec_answers (i : Instr) (s : State) : ∃ t : State, exec i s = .next t := by
  cases i with
  | reset => exact ⟨_, rfl⟩
  | step => exact ⟨_, rfl⟩
  | start seed taps width => exact ⟨_, rfl⟩
  | nop => exact ⟨_, rfl⟩

theorem step_answers (s : State) : ∃ t : State, step s = .next t := exec_answers _ _

end Sys2Proof.Machine
end

section
/-! ## The codes and the `STATUS` view (10_state.md R32, 30_encoding.md R75 to R77) -/

namespace Sys2Proof.Machine

theorem Phase.code_lt (p : Phase) : p.code < 4 := by cases p <;> decide

theorem Cause.code_le (c : Cause) : c.code ≤ 4 := by cases c <;> decide

/-- The phase of a 2-bit code: the table of 30_encoding.md R75 read from right to left. -/
def Phase.ofCode : Nat → Phase
  | 0 => .idle
  | 1 => .run
  | 2 => .done
  | _ => .err

theorem Phase.ofCode_code : Function.LeftInverse Phase.ofCode Phase.code := fun p => by cases p <;> rfl

theorem Phase.code_injective : Function.Injective Phase.code := Phase.ofCode_code.injective

/-- The cause of a code that occurs: the table of 30_encoding.md R76 read from right to left. -/
def Cause.ofCode : Nat → Cause
  | 0 => .none
  | 1 => .invalidSeed
  | 2 => .invalidWidth
  | 3 => .invalidTap
  | _ => .noClosure

theorem Cause.ofCode_code : Function.LeftInverse Cause.ofCode Cause.code := fun c => by cases c <;> rfl

theorem Cause.code_injective : Function.Injective Cause.code := Cause.ofCode_code.injective

/-- `STATUS` as its three fields, one above the other. -/
theorem status_eq_fields (s : State) :
    status s = s.phase.code + 2 ^ 2 * (s.cause.code + 2 ^ 3 * s.emit.toNat) := by
  rw [status]
  omega

theorem status_lt (s : State) : status s < 64 := by
  have hp := s.phase.code_lt
  have hc := s.cause.code_le
  have he := s.emit.toNat_lt
  rw [status]
  omega

theorem field_status_phase (s : State) : field (status s) 0 2 = s.phase.code := by
  rw [status_eq_fields, field_zero_add_mul 2 _ _ s.phase.code_lt]

theorem field_status_cause (s : State) : field (status s) 2 3 = s.cause.code := by
  have hc : s.cause.code < 2 ^ 3 := lt_of_le_of_lt s.cause.code_le (by decide)
  rw [status_eq_fields, field_add_mul 2 0 3 _ _ s.phase.code_lt, field_zero_add_mul 3 _ _ hc]

theorem testBit_status_emit (s : State) : (status s).testBit 5 = s.emit := by
  have hp := s.phase.code_lt
  have hc := s.cause.code_le
  have hdiv : status s / 2 ^ 5 = s.emit.toNat := by rw [status]; omega
  rw [Nat.testBit_eq_decide_div_mod_eq, hdiv]
  cases s.emit <;> rfl

/-- `STATUS` tells the flags apart: each is read back from its own field. -/
theorem flags_eq_of_status_eq {s t : State} (h : status t = status s) :
    t.emit = s.emit ∧ t.cause = s.cause ∧ t.phase = s.phase := by
  refine ⟨?_, Cause.code_injective ?_, Phase.code_injective ?_⟩
  · rw [← testBit_status_emit, h, testBit_status_emit]
  · rw [← field_status_cause, h, field_status_cause]
  · rw [← field_status_phase, h, field_status_phase]

theorem ports_done_eq_true {s : State} : (ports s).done = true ↔ s.phase = .done := decide_eq_true_iff

theorem ports_err_eq_true {s : State} : (ports s).err = true ↔ s.phase = .err := decide_eq_true_iff

theorem ports_outLast_eq_true {s : State} : (ports s).outLast = true ↔ s.emit = true ∧ s.phase = .done := by
  simp [ports]

end Sys2Proof.Machine
end

section
/-! ## The obligations of 30_encoding.md on selection, command bundle, ignored inputs and flags -/

namespace Sys2Proof.Machine

/-- Settles O23: the table by its eight selector words, the cycle by the equation of `step` (R78). -/
theorem exactlyOneOperationIsSelected : Obligations.ExactlyOneOperationIsSelected :=
  ⟨opTable_selects_exactly_selectOp, step_eq⟩

/-- Settles O27: both inverse laws follow from what the bundle holds at each bit; that `start = 0` hides the other
fields is a case of `step_ignores_ports` (R74). -/
theorem commandBundleIsThePorts : Obligations.CommandBundleIsThePorts := by
  refine ⟨fun c x hs ht hw => ⟨bundleOf_lt c x, inputsOfBundle_bundleOf hs ht hw, ?_, ?_, ?_, ?_⟩, ?_, ?_⟩
  · exact fun _ h => testBit_bundleOf_seed c x h
  · exact fun _ h => testBit_bundleOf_taps c x h
  · exact fun _ h => testBit_bundleOf_width c x h
  · exact testBit_bundleOf_start c x
  · exact fun _ rst _ h => bundleOf_inputsOfBundle rst h
  · exact fun s x y rest hrst hx hy => step_ignores_ports s rest hrst (.inr (.inr ⟨hx, hy⟩))

/-- Settles O29: the selection reads only `rst`, `PHASE` and `start`, and every arm answers a next state (R81). -/
theorem ignoredInputsHaveNoEffect : Obligations.IgnoredInputsHaveNoEffect :=
  ⟨Cause.code_le, fun s _ _ rest hrst h => step_ignores_ports s rest hrst h, step_answers⟩

/-- Settles O32: the tables by evaluation, the ports by their definitions, and `STATUS` by its three fields (R75 to
R77, 10_state.md R32). -/
theorem statusViewHoldsTheFlags : Obligations.StatusViewHoldsTheFlags := by
  refine ⟨by decide, by decide, fun s => ?_, fun s => ?_⟩
  · exact ⟨rfl, rfl, ports_ready_eq_true, ports_done_eq_true, ports_err_eq_true, rfl, rfl, rfl, ports_outLast_eq_true⟩
  · exact ⟨status_lt s, testBit_status_emit s, field_status_cause s, field_status_phase s,
      fun _ h => flags_eq_of_status_eq h⟩

end Sys2Proof.Machine
end

/-! # Proofs: 40_command_start.md, NOP, the tests of START, and a START asked for during a run -/

section
/-! ## What the operand tests read of the bits (40_command_start.md R105, R106) -/

namespace Sys2Proof

/-- Something is left above the `n` low bits exactly when the value does not fit them. -/
theorem shiftRight_ne_zero_iff {v n : Nat} : v >>> n ≠ 0 ↔ 2 ^ n ≤ v := by
  rw [Nat.shiftRight_eq_div_pow, Nat.div_ne_zero_iff]
  exact and_iff_right (Nat.two_pow_pos n).ne'

/-- A set bit lies below every bound on the value's length. -/
theorem lt_of_testBit_of_lt_two_pow {v i m : Nat} (hb : v.testBit i = true) (h : v < 2 ^ m) : i < m :=
  (Nat.pow_lt_pow_iff_right (by decide)).mp ((Nat.ge_two_pow_of_testBit hb).trans_lt h)

/-- A value of `m` bits does not fit `n` of them exactly when one of the bits from `n` to `m - 1` is set. -/
theorem shiftRight_ne_zero_iff_exists_testBit {v n m : Nat} (h : v < 2 ^ m) :
    v >>> n ≠ 0 ↔ ∃ i, n ≤ i ∧ i < m ∧ v.testBit i = true := by
  rw [shiftRight_ne_zero_iff]
  constructor
  · intro hv
    obtain ⟨i, hi, hb⟩ := Nat.exists_ge_and_testBit_of_ge_two_pow hv
    exact ⟨i, hi, lt_of_testBit_of_lt_two_pow hb h, hb⟩
  · rintro ⟨i, hi, -, hb⟩
    exact (Nat.pow_le_pow_right (by decide) hi).trans (Nat.ge_two_pow_of_testBit hb)

/-- The operands of a START have a port-level image exactly when each fits its port (30_encoding.md R70, R72). -/
theorem wellFormed_start {c : Config} {seed taps width : Nat} :
    (Instr.start seed taps width).wellFormed c = true ↔
      seed < 2 ^ c.wmax ∧ taps < 2 ^ c.wmax ∧ width < 2 ^ c.wb := by
  simp [Instr.wellFormed, and_assoc]

end Sys2Proof

namespace Sys2Proof.Machine

/-- The port-level tap test (40_command_start.md R106) finds position 1 at mask bit 0 and the positions above the
width at the higher bits. -/
theorem tapTest_iff_exists_mem_decodeTaps {wmax taps : Nat} (width : Nat) (h : taps < 2 ^ wmax) :
    (taps.testBit 0 = true ∨ taps >>> width ≠ 0) ↔ ∃ p ∈ decodeTaps wmax taps, p = 1 ∨ width < p := by
  rw [shiftRight_ne_zero_iff_exists_testBit h]
  constructor
  · rintro (hb | ⟨i, hwi, hi, hb⟩)
    · have hpos := lt_of_testBit_of_lt_two_pow hb h
      exact ⟨1, mem_decodeTaps.mpr ⟨le_rfl, hpos, hb⟩, .inl rfl⟩
    · exact ⟨i + 1, mem_decodeTaps.mpr ⟨by omega, by omega, hb⟩, .inr (by omega)⟩
  · rintro ⟨p, hp, hbad⟩
    obtain ⟨h1, hle, hb⟩ := mem_decodeTaps.mp hp
    obtain rfl | hlt := hbad
    · exact .inl hb
    · exact .inr ⟨p - 1, by omega, by omega, hb⟩

/-- `validate` on the set of positions of a mask is the chain of port-level tests (40_command_start.md R104 to R106). -/
theorem validate_decodeTaps {wmax taps : Nat} (seed width : Nat) (h : taps < 2 ^ wmax) :
    validate wmax seed (decodeTaps wmax taps) width =
      if width = 0 ∨ wmax < width then some .invalidWidth
      else if seed = 0 ∨ seed >>> width ≠ 0 then some .invalidSeed
      else if taps.testBit 0 = true ∨ taps >>> width ≠ 0 then some .invalidTap
      else none := by
  have htap : (∃ t ∈ decodeTaps wmax taps, t < 2 ∨ width < t) ↔ taps.testBit 0 = true ∨ taps >>> width ≠ 0 := by
    rw [tapTest_iff_exists_mem_decodeTaps width h]
    refine exists_congr fun t => and_congr_right fun ht => or_congr_left ?_
    have hpos := (mem_decodeTaps.mp ht).1
    omega
  rw [validate]
  simp only [htap, shiftRight_ne_zero_iff, Nat.lt_one_iff]

end Sys2Proof.Machine
end

section
/-! ## What the operations of the chapter do -/

namespace Sys2Proof.Machine

theorem exec_nop (s : State) : exec .nop s = execNop s := rfl

theorem exec_step (s : State) : exec .step s = execStep s := rfl

theorem exec_start (seed taps width : Nat) (s : State) :
    exec (.start seed taps width) s = execStart seed taps width s := rfl

/-- NOP has nothing to write where `EMIT` is already 0. -/
theorem exec_nop_of_emit_eq_false {s : State} (h : s.emit = false) : exec .nop s = .next s := by
  rw [exec_nop, execNop_eq, ← h]

/-- A cycle outside a run in which the host asks for nothing is a NOP (30_encoding.md R78). -/
theorem step_of_no_request {s : State} (hp : s.phase ≠ .run) (hr : (currentInputs s).rst = false)
    (hs : (currentInputs s).start = false) : step s = exec .nop (advanceInputs s) := by
  simp [step_eq, hp, hr, hs, exec_nop]

/-- A cycle of a run without `rst` is a STEP (30_encoding.md R78). -/
theorem step_of_run {s : State} (hp : s.phase = .run) (hr : (currentInputs s).rst = false) :
    step s = exec .step (advanceInputs s) := by
  simp [step_eq, hp, hr, exec_step]

/-- START with operands the ports can carry: `CAUSE` is what `validate` says of them, and `PHASE` says whether that is
an error (40_command_start.md R102, 60_exceptions.md R196). -/
theorem exec_start_flags {s : State} {seed taps width : Nat}
    (hwf : (Instr.start seed taps width).wellFormed s.cfg = true) :
    ∃ t : State, exec (.start seed taps width) s = .next t ∧
      t.cause = ((validate s.cfg.wmax seed (decodeTaps s.cfg.wmax taps) width).map ErrorCause.toCause).getD .none ∧
      (t.phase = .run ↔ t.cause = .none) ∧ (t.phase = .err ↔ t.cause ≠ .none) := by
  obtain ⟨hs, ht, hw⟩ := wellFormed_start.mp hwf
  rw [exec_start]
  cases h : validate s.cfg.wmax seed (decodeTaps s.cfg.wmax taps) width with
  | none =>
    rw [execStart_of_none (by rwa [trunc_of_lt hs, trunc_of_lt ht, trunc_of_lt hw])]
    exact ⟨_, rfl, rfl, by simp, by simp⟩
  | some e =>
    rw [execStart_of_some (by rwa [trunc_of_lt hs, trunc_of_lt ht, trunc_of_lt hw])]
    exact ⟨_, rfl, rfl, by simp [e.toCause_ne_none], by simp [e.toCause_ne_none]⟩

/-- The three exits of a STEP (41_transition_step.md R136 to R138), each with what selects it. -/
theorem execStep_cases {s t : State} (h : execStep s = .next t) :
    (stepValue s = s.seed ∧ t = { stepWritten s with phase := .done }) ∨
    (stepValue s ≠ s.seed ∧ s.count + 1 = 2 ^ s.width - 1 ∧
      t = { stepWritten s with phase := .err, cause := .noClosure }) ∨
    (stepValue s ≠ s.seed ∧ s.count + 1 ≠ 2 ^ s.width - 1 ∧ t = stepWritten s) := by
  rw [execStep_eq, Host.Outcome.next.injEq] at h
  split at h
  · next hseed => exact .inl ⟨hseed, h.symm⟩
  · next hseed =>
    split at h
    · next hceil => exact .inr (.inl ⟨hseed, hceil, h.symm⟩)
    · next hceil => exact .inr (.inr ⟨hseed, hceil, h.symm⟩)

end Sys2Proof.Machine
end

section
/-! ## The obligations of 40_command_start.md on NOP, the cause of a START, and a START during a run -/

namespace Sys2Proof.Machine

/-- Settles O7: `validate` on a mask's positions is the chain of port-level tests, and START's flags are what `validate`
says; each test is read off the bits it looks at (R104 to R106). -/
theorem startCauseByPortLevelTests : Obligations.StartCauseByPortLevelTests := by
  intro s seed taps width hwf
  obtain ⟨hseed, htaps, -⟩ := wellFormed_start.mp hwf
  refine ⟨?_, shiftRight_ne_zero_iff, shiftRight_ne_zero_iff_exists_testBit hseed,
    tapTest_iff_exists_mem_decodeTaps width htaps⟩
  obtain ⟨t, ht, hcause, hphase⟩ := exec_start_flags hwf
  refine ⟨t, ht, ?_, hphase⟩
  rw [hcause, validate_decodeTaps seed width htaps]
  simp only [apply_ite (Option.map ErrorCause.toCause), apply_ite (Option.getD · Cause.none)]
  rfl

/-- Settles O30: in a run the selection reads `rst` alone, and the three exits of a STEP are going on, closure and the
ceiling (R109). -/
theorem startDuringARunIsIgnored : Obligations.StartDuringARunIsIgnored := by
  intro s hrun hrst
  have hstep := step_of_run hrun hrst
  refine ⟨hstep, fun x y rest hs hy => ?_, fun t ht => ?_⟩
  · have hx : x.rst = false := currentInputs_cons hs ▸ hrst
    have heq : s = { s with inputs := x :: rest } := by rw [← hs]
    rw [heq]
    exact step_ignores_ports s rest (hx.trans hy.symm) (.inr (.inl hrun))
  · rw [hstep, exec_step] at ht
    obtain ⟨hclosed, rfl⟩ | ⟨-, hceil, rfl⟩ | ⟨-, -, rfl⟩ := execStep_cases ht
    · exact .inr (.inl ⟨rfl, hclosed⟩)
    · exact .inr (.inr ⟨rfl, rfl, hceil⟩)
    · exact .inl hrun

/-- Settles O4: NOP by its equation, and by the selection of a cycle without a request outside a run (R100). -/
theorem nopWritesEmitOnly : Obligations.NopWritesEmitOnly :=
  ⟨execNop_eq, fun _ h => exec_nop_of_emit_eq_false h, fun _ hp hr hs => step_of_no_request hp hr hs⟩

end Sys2Proof.Machine
end

/-! # Proofs: 41_transition_step.md, the successor's bits, the exits of a STEP, and 0 as a fixed point -/

section
/-! ## The successor bit by bit (41_transition_step.md R133) -/

namespace Sys2Proof.Machine

theorem fb_le_one (r : Nat) (taps : List Nat) : fb r taps ≤ 1 := by
  rw [fb_eq_toNat]
  exact Bool.toNat_le _

/-- The successor is the register moved down by one bit, with the feedback bit put in at bit index `w - 1`. -/
theorem testBit_next (r : Nat) (taps : List Nat) (w i : Nat) :
    (next r taps w).testBit i = (r.testBit (i + 1) || decide (i = w - 1 ∧ fb r taps = 1)) := by
  have hshift : (fb r taps <<< (w - 1)).testBit i = decide (i = w - 1 ∧ fb r taps = 1) := by
    obtain h | h := Nat.le_one_iff_eq_zero_or_eq_one.mp (fb_le_one r taps)
    · simp [h]
    · rw [h, Nat.one_shiftLeft, Nat.testBit_two_pow]
      simp [eq_comm]
  rw [next, Nat.testBit_or, Nat.testBit_shiftRight, hshift, Nat.add_comm 1 i]

/-- The successor of a `w`-bit register has `w` bits. -/
theorem next_lt {r w : Nat} (taps : List Nat) (hw : 1 ≤ w) (hr : r < 2 ^ w) : next r taps w < 2 ^ w := by
  have hfb : fb r taps <<< (w - 1) < 2 ^ (1 + (w - 1)) := Nat.shiftLeft_lt (Nat.lt_succ_of_le (fb_le_one r taps))
  rw [Nat.add_sub_cancel' hw] at hfb
  exact Nat.or_lt_two_pow ((Nat.shiftRight_le r 1).trans_lt hr) hfb

/-- Below its top bit the successor is the register moved down. -/
theorem testBit_next_of_lt {r w i : Nat} (taps : List Nat) (hi : i + 2 ≤ w) :
    (next r taps w).testBit i = r.testBit (i + 1) := by
  have hne : i ≠ w - 1 := by omega
  simp [testBit_next, hne]

/-- The successor's top bit is the feedback bit: the register moved down has no bit there. -/
theorem testBit_next_top {r w : Nat} (taps : List Nat) (hw : 1 ≤ w) (hr : r < 2 ^ w) :
    (next r taps w).testBit (w - 1) = decide (fb r taps = 1) := by
  have htop : r.testBit (w - 1 + 1) = false := by
    rw [Nat.sub_add_cancel hw]
    exact Nat.testBit_lt_two_pow hr
  simp [testBit_next, htop]

end Sys2Proof.Machine
end

section
/-! ## A STEP within the registers' widths (41_transition_step.md R135) -/

namespace Sys2Proof.Machine

variable {s : State}

/-- In a register of the run's width a STEP's value is the successor itself: no bit is cut off. -/
theorem stepValue_eq_next (hw : 1 ≤ s.width) (hmax : s.width ≤ s.cfg.wmax) (hr : s.reg < 2 ^ s.width) :
    stepValue s = next s.reg (decodeTaps s.cfg.wmax s.taps) s.width := by
  rw [stepValue_of_width_pos hw]
  exact trunc_of_lt ((next_lt _ hw hr).trans_le (Nat.pow_le_pow_right (by decide) hmax))

/-- Below the ceiling the incremented `COUNT` fits its register. -/
theorem trunc_count_succ (hmax : s.width ≤ s.cfg.wmax) (hc : s.count < 2 ^ s.width - 1) :
    trunc s.cfg.wmax (s.count + 1) = s.count + 1 := by
  have hpow : 2 ^ s.width ≤ 2 ^ s.cfg.wmax := Nat.pow_le_pow_right (by decide) hmax
  exact trunc_of_lt (by omega)

/-- What a STEP below the ceiling has written before it compares: `COUNT` does not wrap. -/
theorem stepWritten_of_count_lt (hmax : s.width ≤ s.cfg.wmax) (hc : s.count < 2 ^ s.width - 1) :
    stepWritten s =
      { s with reg := stepValue s, count := s.count + 1, emit := true, traj := s.traj ++ [stepValue s] } := by
  rw [stepWritten, trunc_count_succ hmax hc]

/-- The exit by closure (41_transition_step.md R136). -/
theorem exec_step_of_closure (h : stepValue s = s.seed) :
    exec .step s = .next { stepWritten s with phase := .done } := by
  rw [exec_step, execStep_eq, if_pos h]

/-- The exit by the ceiling, which is tested after closure (41_transition_step.md R138). -/
theorem exec_step_of_ceiling (h : stepValue s ≠ s.seed) (hceil : s.count + 1 = 2 ^ s.width - 1) :
    exec .step s = .next { stepWritten s with phase := .err, cause := .noClosure } := by
  rw [exec_step, execStep_eq, if_neg h, if_pos hceil]

/-- A STEP after which the run goes on. -/
theorem exec_step_of_continuing (h : stepValue s ≠ s.seed) (hceil : s.count + 1 ≠ 2 ^ s.width - 1) :
    exec .step s = .next (stepWritten s) := by
  rw [exec_step, execStep_eq, if_neg h, if_neg hceil]

end Sys2Proof.Machine
end

section
/-! ## 0 is a fixed point (41_transition_step.md R140) -/

namespace Sys2Proof.Machine

@[simp] theorem xorOver_zero (taps : List Nat) : xorOver taps (fun _ => 0) = 0 := by
  induction taps with
  | nil => rfl
  | cons t ts ih => rw [xorOver_cons, ih, Nat.xor_self]

@[simp] theorem acc_zero (taps : List Nat) : acc 0 taps = 0 := by simp [acc]

@[simp] theorem next_zero (taps : List Nat) (w : Nat) : next 0 taps w = 0 := by simp [next, fb]

/-! ## The sequence of a run as an iteration (42_run_semantics.md R161) -/

variable {seed w : Nat} {taps : List Nat}

theorem seqAt_eq_iterate (seed : Nat) (taps : List Nat) (w k : Nat) :
    seqAt seed taps w k = (next · taps w)^[k] seed := by
  induction k with
  | zero => rfl
  | succ k ih => rw [seqAt_succ, ih, Function.iterate_succ_apply']

/-- A sequence that has reached 0 stays there. -/
theorem seqAt_eq_zero_of_le {k j : Nat} (hk : seqAt seed taps w k = 0) (hj : k ≤ j) : seqAt seed taps w j = 0 := by
  induction j, hj using Nat.le_induction with
  | base => exact hk
  | succ j _ ih => rw [seqAt_succ, ih, next_zero]

/-- A sequence that returns to its seed after `k` transitions returns to it at every multiple of `k`. -/
theorem seqAt_mul_of_recurrence {k : Nat} (h : seqAt seed taps w k = seed) (m : Nat) :
    seqAt seed taps w (k * m) = seed := by
  have hper : Function.IsPeriodicPt (next · taps w) k seed := (seqAt_eq_iterate seed taps w k).symm.trans h
  exact (seqAt_eq_iterate seed taps w (k * m)).trans (hper.mul_const m)

/-- A sequence that reaches 0 never returns to a seed that is not 0: it would do so again after it has come to rest. -/
theorem seqAt_ne_seed_of_reaches_zero (hseed : seed ≠ 0) (h0 : ∃ k, seqAt seed taps w k = 0) {k : Nat}
    (hk : 1 ≤ k) : seqAt seed taps w k ≠ seed := by
  intro hback
  obtain ⟨m, hm⟩ := h0
  have hrest : seqAt seed taps w (k * m) = 0 := seqAt_eq_zero_of_le hm (Nat.le_mul_of_pos_left m hk)
  exact hseed ((seqAt_mul_of_recurrence hback m).symm.trans hrest)

/-! ## A run whose seed does not recur (42_run_semantics.md R160) -/

/-- From any point of a run whose seed does not recur the loop goes on to the ceiling. -/
theorem simulateLoop_of_no_recurrence (hne : ∀ j, 1 ≤ j → j ≤ 2 ^ w - 1 → seqAt seed taps w j ≠ seed)
    {fuel k : Nat} (hfuel : k + fuel = 2 ^ w - 1) :
    simulateLoop seed taps w fuel (seqAt seed taps w k) k ((List.range (k + 1)).map (seqAt seed taps w)) =
      .noClosure ((List.range (2 ^ w)).map (seqAt seed taps w)) (2 ^ w - 1) := by
  have hlen : 2 ^ w - 1 + 1 = 2 ^ w := Nat.sub_add_cancel (Nat.two_pow_pos w)
  have happend : ∀ k, (List.range (k + 1)).map (seqAt seed taps w) ++ [seqAt seed taps w (k + 1)] =
      (List.range (k + 1 + 1)).map (seqAt seed taps w) := fun k => by
    rw [List.range_succ (n := k + 1), List.map_append, List.map_singleton]
  induction fuel generalizing k with
  | zero =>
    obtain rfl : k = 2 ^ w - 1 := hfuel
    rw [simulateLoop, hlen]
  | succ fuel ih =>
    have hseed : seqAt seed taps w (k + 1) ≠ seed := hne (k + 1) (by omega) (by omega)
    simp only [simulateLoop, ← seqAt_succ, happend, if_neg hseed]
    split
    · next hceil => rw [hceil, hlen]
    · exact ih (by omega)

/-- With valid operands whose seed does not recur up to the ceiling, `simulate` records the sequence up to the ceiling
and ends in `NoClosure`. -/
theorem simulate_of_no_recurrence {wmax : Nat} (hv : validate wmax seed taps w = none)
    (hne : ∀ j, 1 ≤ j → j ≤ 2 ^ w - 1 → seqAt seed taps w j ≠ seed) :
    simulate wmax seed taps w = .noClosure ((List.range (2 ^ w)).map (seqAt seed taps w)) (2 ^ w - 1) := by
  rw [simulate, hv]
  exact simulateLoop_of_no_recurrence hne (Nat.zero_add _)

end Sys2Proof.Machine
end

section
/-! ## The obligations of 41_transition_step.md on the successor, STEP and the fixed point -/

namespace Sys2Proof.Machine

/-- Settles O12: the cycle by its selection, the three exits each with what the STEP has written, none of it cut by its
register (R130, R135, R136, R138). -/
theorem stepTransitionsAppendsAndCompares : Obligations.StepTransitionsAppendsAndCompares := by
  refine ⟨fun _ hp hr => step_of_run hp hr, ?_⟩
  rintro s hw hmax hr hc n rfl
  rw [← stepValue_eq_next hw hmax hr]
  have hwritten := stepWritten_of_count_lt hmax hc
  refine ⟨fun hseed => ?_, fun hseed hceil => ?_, fun hseed hceil => ?_⟩
  · rw [exec_step_of_closure hseed, hwritten]
  · rw [exec_step_of_ceiling hseed hceil, hwritten]
  · rw [exec_step_of_continuing hseed hceil, hwritten]

/-- Settles O14: the successor's bits are the register's moved down, with the feedback bit on top (R133). -/
theorem successorBitByBit : Obligations.SuccessorBitByBit :=
  fun _ taps _ hw hr =>
    ⟨rfl, next_lt taps hw hr, fun _ hi => testBit_next_of_lt taps hi, testBit_next_top taps hw hr⟩

/-- Settles O17: a sequence at rest in 0 can have returned to its nonzero seed at no time, and a run whose seed does not
recur goes on to the ceiling (R140). -/
theorem zeroIsAFixedPoint : Obligations.ZeroIsAFixedPoint := by
  refine ⟨fun taps w => ⟨acc_zero taps, next_zero taps w⟩, fun wmax seed taps w hv h0 => ?_⟩
  obtain ⟨-, ⟨hseed, -⟩, -⟩ := validate_eq_none.mp hv
  have hne : ∀ k, 1 ≤ k → seqAt seed taps w k ≠ seed := fun _ hk =>
    seqAt_ne_seed_of_reaches_zero (by omega) h0 hk
  exact ⟨hne, _, simulate_of_no_recurrence hv fun j hj _ => hne j hj⟩

end Sys2Proof.Machine
end

/-! # Proofs: 42_run_semantics.md, what a closing run records, the orbit of a seed, equal STARTs, and width 1 -/

section
/-! ## Equal STARTs (42_run_semantics.md R170) -/

namespace Sys2Proof.Machine

variable {s u : State}

/-- START looks at the old state for `cfg` and the later inputs only (40_command_start.md R108). -/
theorem execStart_congr (hcfg : s.cfg = u.cfg) (hin : s.inputs = u.inputs) (seed taps width : Nat) :
    execStart seed taps width s = execStart seed taps width u := by
  cases h : validate s.cfg.wmax (trunc s.cfg.wmax seed) (decodeTaps s.cfg.wmax (trunc s.cfg.wmax taps))
      (trunc s.cfg.wb width) with
  | none => rw [execStart_of_none h, execStart_of_none (hcfg ▸ h), hcfg, hin]
  | some e => rw [execStart_of_some h, execStart_of_some (hcfg ▸ h), hcfg, hin]

/-- A cycle outside a run whose inputs ask for a START is that START (30_encoding.md R78). -/
theorem step_cons_of_start {x : Inputs} {rest : List Inputs} (hp : s.phase ≠ .run) (hrst : x.rst = false)
    (hstart : x.start = true) :
    step { s with inputs := x :: rest } =
      execStart (trunc s.cfg.wmax x.seedIn) (trunc s.cfg.wmax x.tapsIn) (trunc s.cfg.wb x.widthIn)
        { s with inputs := rest } := by
  simp [step_cons, hp, hrst, hstart]

/-- What follows a cycle depends on the state the cycle leaves alone. -/
theorem runFor_succ_congr (h : step s = step u) (k : Nat) : runFor (k + 1) s = runFor (k + 1) u := by
  rw [runFor, runFor, h]

end Sys2Proof.Machine
end

section
/-! ## What a closing run records (42_run_semantics.md R160, R164) -/

namespace Sys2Proof.Machine

variable {seed w L : Nat} {taps traj : List Nat}

/-- A loop that goes on from a point `k` of the sequence and closes does so at the first recurrence of the seed after
`k`, with the sequence up to there recorded. -/
theorem simulateLoop_closed {fuel k : Nat}
    (h : simulateLoop seed taps w fuel (seqAt seed taps w k) k ((List.range (k + 1)).map (seqAt seed taps w)) =
      .closed traj L) :
    (k < L ∧ seqAt seed taps w L = seed ∧ ∀ j, k < j → j < L → seqAt seed taps w j ≠ seed) ∧
      traj = (List.range (L + 1)).map (seqAt seed taps w) := by
  induction fuel generalizing k with
  | zero => cases h
  | succ fuel ih =>
    have happend : (List.range (k + 1)).map (seqAt seed taps w) ++ [seqAt seed taps w (k + 1)] =
        (List.range (k + 1 + 1)).map (seqAt seed taps w) := by simp [List.range_succ]
    simp only [simulateLoop, ← seqAt_succ, happend] at h
    split at h
    · next hback =>
      obtain ⟨rfl, rfl⟩ := RunResult.closed.inj h
      exact ⟨⟨by omega, hback, by omega⟩, rfl⟩
    · next hseed =>
      split at h
      · cases h
      · obtain ⟨⟨hlt, hback, hne⟩, htraj⟩ := ih h
        refine ⟨⟨by omega, hback, fun j hkj hjL => ?_⟩, htraj⟩
        obtain rfl | hj := Nat.eq_or_lt_of_le hkj
        · exact hseed
        · exact hne j hj hjL

/-- A run of `simulate` that closes does so at the first recurrence of its seed, with the sequence up to there
recorded. -/
theorem simulate_closed {wmax : Nat} (h : simulate wmax seed taps w = .closed traj L) :
    (1 ≤ L ∧ seqAt seed taps w L = seed ∧ ∀ j, 1 ≤ j → j < L → seqAt seed taps w j ≠ seed) ∧
      traj = (List.range (L + 1)).map (seqAt seed taps w) := by
  rw [simulate] at h
  split at h
  · cases h
  · exact simulateLoop_closed (k := 0) h

end Sys2Proof.Machine
end

section
/-! ## The orbit of a seed (42_run_semantics.md R169) -/

namespace Sys2Proof.Machine

variable {seed w L : Nat} {taps : List Nat}

/-- The first recurrence of the seed is the least period of the seed under the successor. -/
theorem minimalPeriod_next_eq (hL : 1 ≤ L) (hback : seqAt seed taps w L = seed)
    (hne : ∀ j, 1 ≤ j → j < L → seqAt seed taps w j ≠ seed) :
    Function.minimalPeriod (next · taps w) seed = L := by
  have hper : Function.IsPeriodicPt (next · taps w) L seed := (seqAt_eq_iterate seed taps w L).symm.trans hback
  have hmin := Function.iterate_minimalPeriod (f := (next · taps w)) (x := seed)
  rw [← seqAt_eq_iterate] at hmin
  refine (hper.minimalPeriod_le hL).antisymm (not_lt.mp fun hlt => ?_)
  exact hne _ (hper.minimalPeriod_pos hL) hlt hmin

/-- Up to the first recurrence of the seed no state is met twice. -/
theorem nodup_seqAt_range (hL : 1 ≤ L) (hback : seqAt seed taps w L = seed)
    (hne : ∀ j, 1 ≤ j → j < L → seqAt seed taps w j ≠ seed) : ((List.range L).map (seqAt seed taps w)).Nodup := by
  have hinj := Function.iterate_injOn_Iio_minimalPeriod (f := (next · taps w)) (x := seed)
  rw [minimalPeriod_next_eq hL hback hne] at hinj
  refine List.Nodup.map_on (fun i hi j hj hij => hinj (List.mem_range.mp hi) (List.mem_range.mp hj) ?_)
    List.nodup_range
  rwa [seqAt_eq_iterate, seqAt_eq_iterate] at hij

/-- The sequence of a seed that fits the width stays in the width (42_run_semantics.md section 1). -/
theorem seqAt_lt (hw : 1 ≤ w) (hseed : seed < 2 ^ w) (k : Nat) : seqAt seed taps w k < 2 ^ w := by
  induction k with
  | zero => exact hseed
  | succ k ih => exact next_lt taps hw ih

/-- Only finitely many states fit the width, so that the states after the seed cannot all be different. -/
theorem exists_seqAt_eq (hw : 1 ≤ w) (hseed : seed < 2 ^ w) :
    ∃ i j, 1 ≤ i ∧ i < j ∧ seqAt seed taps w i = seqAt seed taps w j := by
  have hmaps : Set.MapsTo (seqAt seed taps w) (Set.Ici 1) (Set.Iio (2 ^ w)) := fun k _ => seqAt_lt hw hseed k
  obtain ⟨i, hi, j, -, hij, heq⟩ :=
    (Set.Ici_infinite 1).exists_lt_map_eq_of_mapsTo hmaps (Set.finite_Iio _)
  exact ⟨i, j, hi, hij, heq⟩

end Sys2Proof.Machine
end

section
/-! ## Width 1 (42_run_semantics.md R175) -/

namespace Sys2Proof.Machine

/-- The mask 0 is the empty tap set. -/
@[simp] theorem decodeTaps_zero (wmax : Nat) : decodeTaps wmax 0 = [] := by
  simp [decodeTaps]

/-- START with valid operands that its ports can carry: a run begins on those operands (40_command_start.md R102). -/
theorem exec_start_of_valid {s : State} {seed taps width : Nat}
    (hwf : (Instr.start seed taps width).wellFormed s.cfg = true)
    (hv : validate s.cfg.wmax seed (decodeTaps s.cfg.wmax taps) width = none) :
    exec (.start seed taps width) s = .next
      { cfg := s.cfg, inputs := s.inputs, phase := .run, cause := .none, width := width, seed := seed, taps := taps,
        reg := seed, count := 0, emit := true, traj := [seed] } := by
  obtain ⟨hs, ht, hw⟩ := wellFormed_start.mp hwf
  rw [exec_start, execStart_of_none (by rwa [trunc_of_lt hs, trunc_of_lt ht, trunc_of_lt hw]), trunc_of_lt hs,
    trunc_of_lt ht, trunc_of_lt hw]

/-- In width 1 the only nonzero seed is 1, and no position lies from 2 to 1. -/
theorem validate_width_one {wmax seed : Nat} {taps : List Nat} (hmax : 1 ≤ wmax) :
    validate wmax seed taps 1 = none ↔ seed = 1 ∧ taps = [] := by
  rw [validate_eq_none]
  constructor
  · rintro ⟨-, hseed, htaps⟩
    refine ⟨by omega, List.eq_nil_iff_forall_not_mem.mpr fun t ht => ?_⟩
    have := htaps t ht
    omega
  · rintro ⟨rfl, rfl⟩
    exact ⟨⟨le_rfl, hmax⟩, by decide, by simp⟩

/-- The operands of width 1 fit the ports whatever `WMAX` is. -/
theorem wellFormed_start_width_one {c : Config} (h : c.ok) : (Instr.start 1 0 1).wellFormed c = true :=
  wellFormed_start.mpr ⟨Nat.one_lt_two_pow (by omega), Nat.two_pow_pos _, c.lt_two_pow_wb (by omega)⟩

/-- The first STEP of a run in width 1 writes 0 and reaches the ceiling. -/
theorem exec_step_width_one {s : State} (hmax : 1 ≤ s.cfg.wmax) (hw : s.width = 1) (hseed : s.seed = 1)
    (htaps : s.taps = 0) (hreg : s.reg = 1) (hcount : s.count = 0) :
    exec .step s = .next
      { s with phase := .err, cause := .noClosure, reg := 0, count := 1, emit := true, traj := s.traj ++ [0] } := by
  have hval : stepValue s = 0 := by
    rw [stepValue_eq_next (by omega) (by omega) (by rw [hreg, hw]; decide), hreg, hw, htaps, decodeTaps_zero]
    decide
  have hwritten := stepWritten_of_count_lt (s := s) (by omega) (by rw [hcount, hw]; decide)
  rw [exec_step_of_ceiling (by rw [hval, hseed]; decide) (by rw [hcount, hw]; decide), hwritten, hval, hcount]

/-- The run in width 1 as a function: the ceiling is reached after one transition. -/
theorem simulate_width_one {wmax : Nat} (hmax : 1 ≤ wmax) : simulate wmax 1 [] 1 = .noClosure [1, 0] 1 := by
  rw [simulate, (validate_width_one hmax).mpr ⟨rfl, rfl⟩]
  decide

end Sys2Proof.Machine
end

section
/-! ## The obligations of 42_run_semantics.md on trajectories, repetition, determinism and width 1 -/

namespace Sys2Proof.Machine

/-- Settles O11: outside a run the first cycle is the START, which looks at `cfg` and the later inputs only, and
the later cycles follow from the state it leaves (R170). -/
theorem equalStartsGiveEqualRuns : Obligations.EqualStartsGiveEqualRuns := by
  intro s u x rest hcfg hs hu hrst hstart
  have hstep : step { s with inputs := x :: rest } = step { u with inputs := x :: rest } := by
    rw [step_cons_of_start hs hrst hstart, step_cons_of_start hu hrst hstart, hcfg]
    apply execStart_congr <;> rfl
  exact runFor_succ_congr hstep

/-- Settles O45: a closing run ends at the first recurrence of its seed and records the sequence up to there (R164). -/
theorem aTrajectoryRunsFromSeedToSeed : Obligations.ATrajectoryRunsFromSeedToSeed := by
  intro wmax seed taps w traj L h
  obtain ⟨⟨hL, hback, hne⟩, rfl⟩ := simulate_closed h
  refine ⟨hL, rfl, by simp, by simp [List.range_succ_eq_map], by simp [List.range_succ, hback], hne, ?_⟩
  rintro rfl
  simp [List.range_succ, hback]

/-- Settles O46: before the first recurrence the states are those of one period of the seed; and the states after a seed
are infinitely many in a finite register, whether the seed recurs or not (R169). -/
theorem aClosingRunIsInjectiveUntilClosure : Obligations.AClosingRunIsInjectiveUntilClosure := by
  refine ⟨fun wmax seed taps w traj L h => ?_, fun wmax seed taps w hv _ => ?_⟩
  · obtain ⟨⟨hL, hback, hne⟩, rfl⟩ := simulate_closed h
    have htake : ((List.range (L + 1)).map (seqAt seed taps w)).take L = (List.range L).map (seqAt seed taps w) := by
      simp [← List.map_take, List.take_range]
    rw [htake]
    exact nodup_seqAt_range hL hback hne
  · obtain ⟨⟨hw, -⟩, ⟨-, hseed⟩, -⟩ := validate_eq_none.mp hv
    exact exists_seqAt_eq hw hseed

/-- Settles O50: in width 1 the ceiling is one transition away, and the successor of the seed 1 is 0 (R175). -/
theorem widthOneEndsInNoClosure : Obligations.WidthOneEndsInNoClosure := by
  refine ⟨fun c hc seed taps => validate_width_one (by omega), by decide, fun c hc => simulate_width_one (by omega),
    fun s hs => ?_⟩
  have hmax : 1 ≤ s.cfg.wmax := by omega
  have hv : validate s.cfg.wmax 1 (decodeTaps s.cfg.wmax 0) 1 = none := by
    rw [decodeTaps_zero]
    exact (validate_width_one hmax).mpr ⟨rfl, rfl⟩
  exact ⟨_, _, exec_start_of_valid (wellFormed_start_width_one hs) hv, rfl, exec_step_width_one hmax rfl rfl rfl rfl rfl,
    rfl, rfl, rfl, rfl, rfl⟩

end Sys2Proof.Machine
end

/-! # Proofs: 60_exceptions.md, error entry and sitting in ERR -/

section
/-! ## The two ways into ERR and the cycles spent there (60_exceptions.md R196) -/

namespace Sys2Proof.Machine

variable {s : State}

/-- START with operands that its ports can carry and `validate` refuses: they are latched, and the run's registers are
cleared (40_command_start.md R102). -/
theorem exec_start_of_refused {seed taps width : Nat} {e : ErrorCause}
    (hwf : (Instr.start seed taps width).wellFormed s.cfg = true)
    (hv : validate s.cfg.wmax seed (decodeTaps s.cfg.wmax taps) width = some e) :
    exec (.start seed taps width) s = .next
      { cfg := s.cfg, inputs := s.inputs, phase := .err, cause := e.toCause, width := width, seed := seed,
        taps := taps, reg := 0, count := 0, emit := false, traj := [] } := by
  obtain ⟨hs, ht, hw⟩ := wellFormed_start.mp hwf
  rw [exec_start, execStart_of_some (by rwa [trunc_of_lt hs, trunc_of_lt ht, trunc_of_lt hw]), trunc_of_lt hs,
    trunc_of_lt ht, trunc_of_lt hw]

/-- A STEP to the ceiling keeps what it has written: the new state, its count and its trajectory element, none of it
cut by its register (41_transition_step.md R138). -/
theorem exec_step_to_ceiling (hw : 1 ≤ s.width) (hmax : s.width ≤ s.cfg.wmax) (hr : s.reg < 2 ^ s.width)
    (hceil : s.count + 1 = 2 ^ s.width - 1)
    (hseed : next s.reg (decodeTaps s.cfg.wmax s.taps) s.width ≠ s.seed) :
    exec .step s = .next
      { s with
        phase := .err, cause := .noClosure, reg := next s.reg (decodeTaps s.cfg.wmax s.taps) s.width,
        count := s.count + 1, emit := true,
        traj := s.traj ++ [next s.reg (decodeTaps s.cfg.wmax s.taps) s.width] } := by
  rw [← stepValue_eq_next hw hmax hr] at hseed ⊢
  rw [exec_step_of_ceiling hseed hceil, stepWritten_of_count_lt hmax (by omega)]

/-- Outside a run a cycle without a request writes `EMIT` alone (40_command_start.md R100). -/
theorem step_of_no_request_eq (hp : s.phase ≠ .run) (hrst : (currentInputs s).rst = false)
    (hstart : (currentInputs s).start = false) : step s = .next { s with emit := false, inputs := s.inputs.tail } := by
  rw [step_of_no_request hp hrst hstart, exec_nop, execNop_eq, advanceInputs]

end Sys2Proof.Machine
end

section
/-! ## The obligation of 60_exceptions.md on error entry -/

namespace Sys2Proof.Machine

/-- Settles O8: the two ways into ERR by the equations of a refused START and of a STEP to the ceiling; ERR is a phase
outside a run, so its cycles without a request are NOPs (R196). -/
theorem errorEntryLeavesThisState : Obligations.ErrorEntryLeavesThisState := by
  refine ⟨fun _ _ _ _ _ => exec_start_of_refused, fun _ => exec_step_to_ceiling, fun s herr => ?_⟩
  have hrun : s.phase ≠ .run := by simp [herr]
  exact ⟨ports_ready_eq_true.mpr hrun, ports_err_eq_true.mpr herr, step_of_no_request_eq hrun⟩

end Sys2Proof.Machine
end

/-! # Proofs: 70_reset_and_hazards.md, the priority of `rst` and the operation RESET -/

section
/-! ## RESET: its selection, its repetition, and the idle states (70_reset_and_hazards.md R220) -/

namespace Sys2Proof.Machine

variable {s t : State}

theorem exec_reset (s : State) : exec .reset s = execReset s := rfl

/-- A cycle with `rst = 1` is a RESET, whatever `PHASE` and the other ports hold (R221). -/
theorem step_of_rst (h : (currentInputs s).rst = true) : step s = exec .reset (advanceInputs s) := by
  rw [step_eq, if_pos h, exec_reset]

/-- What RESET answers depends on `cfg` and `inputs` only, and RESET keeps both. -/
theorem exec_reset_idempotent (h : exec .reset s = .next t) : exec .reset t = .next t := by
  rw [exec_reset, execReset_eq, Host.Outcome.next.injEq] at h
  subst h
  rw [exec_reset, execReset_eq]

/-- The flags of an idle state (10_state.md R37 items 1 and 8). -/
theorem flags_of_inv_of_idle (hinv : Inv s) (hidle : s.phase = .idle) : s.cause = .none ∧ s.emit = false := by
  obtain ⟨-, -, hcause, -, hemit⟩ := hinv
  exact ⟨hcause.mpr (by simp [hidle]), Bool.eq_false_iff.mpr fun h => (hemit h).1 hidle⟩

/-- An idle state of the invariants holds every reset value already, its registers by 10_state.md R37 item 7. -/
theorem exec_reset_of_inv_of_idle (hinv : Inv s) (hidle : s.phase = .idle) : exec .reset s = .next s := by
  obtain ⟨hcause, hemit⟩ := flags_of_inv_of_idle hinv hidle
  obtain ⟨-, -, -, ⟨hrecord, -⟩, -⟩ := hinv
  obtain ⟨hwidth, hseed, htaps, hreg, hcount, htraj⟩ := hrecord hidle
  rw [exec_reset, execReset_eq]
  cases s
  simp_all only

end Sys2Proof.Machine
end

section
/-! ## The obligations of 70_reset_and_hazards.md -/

namespace Sys2Proof.Machine

/-- Settles O1: `rst` is the first test of the selection, and RESET does not read what it overwrites (R221). -/
theorem rstHasPriorityOverEverything : Obligations.RstHasPriorityOverEverything := by
  intro s hrst
  rw [step_of_rst hrst, exec_reset, execReset_eq, advanceInputs_cfg, advanceInputs_inputs]

/-- Settles O2: the selection, the equation of RESET, and from it the repetition and the idle states (R220). -/
theorem resetWritesEveryResetValue : Obligations.ResetWritesEveryResetValue :=
  ⟨fun _ => step_of_rst, execReset_eq, fun _ _ => exec_reset_idempotent, fun _ => exec_reset_of_inv_of_idle⟩

end Sys2Proof.Machine
end

/-! # Proofs: 10_state.md, the invariants and the widths of the registers -/

section
/-! ## What each record of 10_state.md R37 gives for the whole state -/

namespace Sys2Proof.Machine

variable {s : State}

theorem causeMatchesPhase_of_none (hc : s.cause = .none) (hp : s.phase ≠ .err) : CauseMatchesPhase s :=
  iff_of_true hc hp

theorem causeMatchesPhase_of_err (hc : s.cause ≠ .none) (hp : s.phase = .err) : CauseMatchesPhase s :=
  iff_of_false hc (not_not.mpr hp)

theorem phaseRecord_of_idle (hp : s.phase = .idle) (h : IdleRecord s) : PhaseRecord s := by
  simpa [PhaseRecord, hp] using h

theorem phaseRecord_of_run (hp : s.phase = .run) (h : RunningRecord s) : PhaseRecord s := by
  simpa [PhaseRecord, hp] using h

theorem phaseRecord_of_done (hp : s.phase = .done) (h : ClosedRecord s) : PhaseRecord s := by
  simpa [PhaseRecord, hp] using h

theorem phaseRecord_of_ceiling (hp : s.phase = .err) (hc : s.cause = .noClosure) (h : CeilingRecord s) :
    PhaseRecord s := by
  simpa [PhaseRecord, hp, hc] using h

/-- `validate` refuses for an input error, which is one of the three causes of item 6. -/
theorem phaseRecord_of_refused {e : ErrorCause} (hp : s.phase = .err) (hc : s.cause = e.toCause)
    (h : RefusedRecord e s) : PhaseRecord s := by
  cases e with
  | noClosure =>
    obtain ⟨-, -, -, -, hv⟩ := h
    exact absurd hv validate_ne_noClosure
  | invalidSeed => simpa [PhaseRecord, hp, hc, ErrorCause.toCause] using h
  | invalidWidth => simpa [PhaseRecord, hp, hc, ErrorCause.toCause] using h
  | invalidTap => simpa [PhaseRecord, hp, hc, ErrorCause.toCause] using h

theorem Inv.cfg_ok (h : Inv s) : s.cfg.ok := h.1

theorem Inv.fits (h : Inv s) : Fits s := h.2.1

/-- A state of the invariants in `RUN`: the record of item 3, and no cause. -/
theorem Inv.runningRecord (h : Inv s) (hp : s.phase = .run) : RunningRecord s ∧ s.cause = .none := by
  obtain ⟨-, -, hcause, ⟨-, hrun, -⟩, -⟩ := h
  exact ⟨hrun hp, hcause.mpr (by simp [hp])⟩

/-- A state of the invariants in `DONE`: the record of item 4. -/
theorem Inv.closedRecord (h : Inv s) (hp : s.phase = .done) : ClosedRecord s := by
  obtain ⟨-, -, -, ⟨-, -, hdone, -⟩, -⟩ := h
  exact hdone hp

end Sys2Proof.Machine
end

section
/-! ## The state each operation answers -/

namespace Sys2Proof.Machine

variable {s t : State}

/-- The `PHASE` a STEP leaves: that of its exit (41_transition_step.md R136 to R138). -/
def stepPhase (s : State) : Phase :=
  if stepValue s = s.seed then .done else if s.count + 1 = 2 ^ s.width - 1 then .err else s.phase

/-- The `CAUSE` a STEP leaves: `NoClosure` at the ceiling. -/
def stepCause (s : State) : Cause :=
  if stepValue s = s.seed then s.cause else if s.count + 1 = 2 ^ s.width - 1 then .noClosure else s.cause

/-- STEP as one state: what it has written before it compares, with the flags of its exit. -/
theorem execStep_eq_exit (s : State) :
    execStep s = .next { stepWritten s with phase := stepPhase s, cause := stepCause s } := by
  rw [execStep_eq, stepPhase, stepCause]
  split
  · rfl
  · split <;> rfl

/-- The two exits of a START (40_command_start.md R102), each with what `validate` says of the wires' values. -/
theorem execStart_cases {seed taps width : Nat} (ht : execStart seed taps width s = .next t) :
    (validate s.cfg.wmax (trunc s.cfg.wmax seed) (decodeTaps s.cfg.wmax (trunc s.cfg.wmax taps))
        (trunc s.cfg.wb width) = none ∧
      t = { cfg := s.cfg, inputs := s.inputs, phase := .run, cause := .none, width := trunc s.cfg.wb width,
            seed := trunc s.cfg.wmax seed, taps := trunc s.cfg.wmax taps, reg := trunc s.cfg.wmax seed, count := 0,
            emit := true, traj := [trunc s.cfg.wmax seed] }) ∨
    ∃ e, validate s.cfg.wmax (trunc s.cfg.wmax seed) (decodeTaps s.cfg.wmax (trunc s.cfg.wmax taps))
        (trunc s.cfg.wb width) = some e ∧
      t = { cfg := s.cfg, inputs := s.inputs, phase := .err, cause := e.toCause, width := trunc s.cfg.wb width,
            seed := trunc s.cfg.wmax seed, taps := trunc s.cfg.wmax taps, reg := 0, count := 0, emit := false,
            traj := [] } := by
  cases hv : validate s.cfg.wmax (trunc s.cfg.wmax seed) (decodeTaps s.cfg.wmax (trunc s.cfg.wmax taps))
      (trunc s.cfg.wb width) with
  | none => exact .inl ⟨rfl, (Host.Outcome.next.inj ((execStart_of_none hv).symm.trans ht)).symm⟩
  | some e => exact .inr ⟨e, rfl, (Host.Outcome.next.inj ((execStart_of_some hv).symm.trans ht)).symm⟩

end Sys2Proof.Machine
end

section
/-! ## Every operation keeps the widths of the registers -/

namespace Sys2Proof.Machine

variable {s t : State}

theorem fits_reset_values (c : Config) (l : List Inputs) (p : Phase) (e : Cause) :
    Fits { cfg := c, inputs := l, phase := p, cause := e, width := 0, seed := 0, taps := 0, reg := 0, count := 0,
           emit := false, traj := [] } :=
  have hpos := Nat.two_pow_pos c.wmax
  ⟨Nat.two_pow_pos c.wb, hpos, hpos, hpos, hpos, Memory.wf_nil c⟩

/-- What a STEP writes is cut to its registers. -/
theorem fits_stepWritten (h : Fits s) : Fits (stepWritten s) := by
  obtain ⟨hwidth, hseed, htaps, -, -, htraj⟩ := h
  exact ⟨hwidth, hseed, htaps, stepValue_lt s, trunc_lt _ _, Memory.wf_append htraj (stepValue_lt s)⟩

theorem execStep_keeps_fits (h : Fits s) (ht : execStep s = .next t) : Fits t ∧ t.cfg = s.cfg := by
  obtain rfl := Host.Outcome.next.inj ((execStep_eq_exit s).symm.trans ht)
  exact ⟨fits_stepWritten h, rfl⟩

/-- START latches operands of its ports' widths, whatever the old registers held. -/
theorem execStart_fits {seed taps width : Nat} (ht : execStart seed taps width s = .next t) :
    Fits t ∧ t.cfg = s.cfg := by
  have hpos := Nat.two_pow_pos s.cfg.wmax
  have hseed := trunc_lt s.cfg.wmax seed
  obtain ⟨hv, rfl⟩ | ⟨e, hv, rfl⟩ := execStart_cases ht
  · exact ⟨⟨trunc_lt _ _, hseed, trunc_lt _ _, hseed, hpos, Memory.wf_append (Memory.wf_nil _) hseed⟩, rfl⟩
  · exact ⟨⟨trunc_lt _ _, hseed, trunc_lt _ _, hpos, hpos, Memory.wf_nil _⟩, rfl⟩

theorem step_keeps_fits (h : Fits s) (ht : step s = .next t) : Fits t ∧ t.cfg = s.cfg := by
  obtain ⟨-, hreset⟩ | ⟨-, -, hstep⟩ | ⟨-, -, -, hstart⟩ | ⟨-, -, -, hnop⟩ := step_cases ht
  · obtain rfl := Host.Outcome.next.inj ((execReset_eq _).symm.trans hreset)
    exact ⟨fits_reset_values _ _ _ _, rfl⟩
  · exact execStep_keeps_fits (s := advanceInputs s) h hstep
  · exact execStart_fits (s := advanceInputs s) hstart
  · obtain rfl := Host.Outcome.next.inj ((execNop_eq _).symm.trans hnop)
    exact ⟨h, rfl⟩

end Sys2Proof.Machine
end

section
/-! ## The record of a run across a STEP -/

namespace Sys2Proof.Machine

variable {s : State}

theorem read_stepWritten_of_lt {k : Nat} (h : k < s.traj.length) :
    Memory.read (stepWritten s).traj k = Memory.read s.traj k :=
  Memory.read_append_of_lt s.traj (stepValue s) h

theorem read_stepWritten_length (s : State) :
    Memory.read (stepWritten s).traj s.traj.length = some (stepValue s) :=
  Memory.read_append_length s.traj (stepValue s)

theorem length_stepWritten (s : State) : (stepWritten s).traj.length = s.traj.length + 1 :=
  Memory.length_append s.traj (stepValue s)

theorem RunRecord.stepValue_eq (h : RunRecord s) :
    stepValue s = next s.reg (decodeTaps s.cfg.wmax s.taps) s.width := by
  obtain ⟨⟨hw, hmax⟩, -, -, hr, -⟩ := h
  exact stepValue_eq_next hw hmax hr

/-- Below the ceiling the count that a STEP writes is not cut. -/
theorem RunRecord.count_stepWritten (h : RunRecord s) (hc : s.count < 2 ^ s.width - 1) :
    (stepWritten s).count = s.count + 1 := by
  obtain ⟨⟨-, hmax⟩, -⟩ := h
  exact trunc_count_succ hmax hc

/-- A STEP below the ceiling appends the successor of the last element. -/
theorem RunRecord.stepWritten (h : RunRecord s) (hc : s.count < 2 ^ s.width - 1) : RunRecord (stepWritten s) := by
  have hval := RunRecord.stepValue_eq h
  have hcount := RunRecord.count_stepWritten h hc
  obtain ⟨hwidth, hseed, htaps, hr, hlen, hfirst, hlast, hchain⟩ := h
  have hnew : Memory.read (Machine.stepWritten s).traj (s.count + 1) = some (stepValue s) := by
    rw [← hlen, read_stepWritten_length]
  have hold : ∀ k ≤ s.count, Memory.read (Machine.stepWritten s).traj k = Memory.read s.traj k :=
    fun k hk => read_stepWritten_of_lt (by omega)
  refine ⟨hwidth, hseed, htaps, ?_, ?_, ?_, ?_, fun k hk => ?_⟩
  · show stepValue s < 2 ^ s.width
    rw [hval]
    exact next_lt _ hwidth.1 hr
  · rw [length_stepWritten, hlen, hcount]
  · rw [hold 0 (Nat.zero_le _), hfirst]
    rfl
  · rw [hcount, hnew]
    rfl
  · rw [hcount] at hk
    rw [hold k (by omega)]
    obtain hlt | rfl := Nat.lt_succ_iff_lt_or_eq.mp hk
    · rw [hold (k + 1) hlt]
      exact hchain k hlt
    · rw [hnew, hval, hlast]
      rfl

/-- The elements that were there before the STEP are none of them the seed but the first. -/
theorem SeedNotBackBy.stepWritten_of_lt {k : Nat} (h : SeedNotBackBy k s) (hk : k < s.traj.length) :
    SeedNotBackBy k (stepWritten s) := by
  intro j hj
  rw [read_stepWritten_of_lt (by omega)]
  exact h j hj

/-- A STEP that does not close has appended something else than the seed. -/
theorem SeedNotBackBy.stepWritten_succ {k : Nat} (h : SeedNotBackBy k s) (hk : s.traj.length = k + 1)
    (hne : stepValue s ≠ s.seed) : SeedNotBackBy (k + 1) (stepWritten s) := by
  intro j hj
  obtain hlt | rfl := Nat.lt_succ_iff_lt_or_eq.mp hj
  · exact SeedNotBackBy.stepWritten_of_lt h (by omega) j hlt
  · rw [← hk, read_stepWritten_length]
    exact fun h => hne (Option.some.inj h)

/-- A START that `validate` passes leaves a record of the seed alone. -/
theorem runningRecord_of_valid {c : Config} {l : List Inputs} {seed taps width : Nat}
    (hv : validate c.wmax seed (decodeTaps c.wmax taps) width = none) :
    RunningRecord
      { cfg := c, inputs := l, phase := .run, cause := .none, width := width, seed := seed, taps := taps,
        reg := seed, count := 0, emit := true, traj := [seed] } := by
  obtain ⟨hwidth, hseed, htaps⟩ := validate_eq_none.mp hv
  exact ⟨⟨hwidth, hseed, htaps, hseed.2, rfl, rfl, rfl, fun k hk => absurd hk k.not_lt_zero⟩,
    by dsimp only; omega, fun k hk => absurd hk k.not_lt_zero⟩

end Sys2Proof.Machine
end

section
/-! ## Every cycle keeps the invariants -/

namespace Sys2Proof.Machine

variable {s t : State}

/-- The reset values meet the invariants, whatever the host will drive. -/
theorem inv_reset_values {c : Config} (hc : c.ok) (l : List Inputs) :
    Inv { cfg := c, inputs := l, phase := .idle, cause := .none, width := 0, seed := 0, taps := 0, reg := 0,
          count := 0, emit := false, traj := [] } :=
  ⟨hc, fits_reset_values c l .idle .none, causeMatchesPhase_of_none rfl (by simp),
    phaseRecord_of_idle rfl ⟨rfl, rfl, rfl, rfl, rfl, rfl⟩, by simp [EmitMeansAppended]⟩

/-- A STEP of a run goes on, closes or reaches the ceiling, each with the record of its item. -/
theorem inv_of_execStep (h : Inv s) (hp : s.phase = .run) (ht : execStep s = .next t) : Inv t := by
  have hfits := (execStep_keeps_fits h.fits ht).1
  obtain ⟨⟨hrec, hc, hnot⟩, hcause⟩ := h.runningRecord hp
  have hrec' := RunRecord.stepWritten hrec hc
  have hcount := RunRecord.count_stepWritten hrec hc
  obtain ⟨-, -, -, -, hlen, -⟩ := hrec
  have happended : 1 ≤ (stepWritten s).traj.length := by rw [length_stepWritten]; omega
  obtain ⟨hclosed, rfl⟩ | ⟨hne, hceil, rfl⟩ | ⟨hne, hceil, rfl⟩ := execStep_cases ht
  · have hnot' : SeedNotBackBy ((stepWritten s).count - 1) (stepWritten s) := by
      rw [hcount]
      exact SeedNotBackBy.stepWritten_of_lt hnot (by omega)
    have hbounds : 1 ≤ (stepWritten s).count ∧ (stepWritten s).count ≤ 2 ^ s.width - 1 := by omega
    exact ⟨h.cfg_ok, hfits, causeMatchesPhase_of_none hcause (by simp),
      phaseRecord_of_done rfl ⟨hrec', hbounds, hclosed, hnot'⟩, fun _ => ⟨by simp, happended⟩⟩
  · have hnot' : SeedNotBackBy (stepWritten s).count (stepWritten s) :=
      hcount ▸ SeedNotBackBy.stepWritten_succ hnot hlen hne
    exact ⟨h.cfg_ok, hfits, causeMatchesPhase_of_err (by simp) rfl,
      phaseRecord_of_ceiling rfl rfl ⟨hrec', hcount.trans hceil, hnot'⟩, fun _ => ⟨by simp, happended⟩⟩
  · have hp' : (stepWritten s).phase = .run := hp
    have hnot' : SeedNotBackBy (stepWritten s).count (stepWritten s) :=
      hcount ▸ SeedNotBackBy.stepWritten_succ hnot hlen hne
    have hbelow : (stepWritten s).count < 2 ^ s.width - 1 := by omega
    exact ⟨h.cfg_ok, hfits, causeMatchesPhase_of_none hcause (by simp [hp']),
      phaseRecord_of_run hp ⟨hrec', hbelow, hnot'⟩, fun _ => ⟨by simp [hp'], happended⟩⟩

/-- A START begins a record or is refused, whatever the old state held. -/
theorem inv_of_execStart {seed taps width : Nat} (hok : s.cfg.ok) (ht : execStart seed taps width s = .next t) :
    Inv t := by
  have hfits := (execStart_fits ht).1
  obtain ⟨hv, rfl⟩ | ⟨e, hv, rfl⟩ := execStart_cases ht
  · exact ⟨hok, hfits, causeMatchesPhase_of_none rfl (by simp), phaseRecord_of_run rfl (runningRecord_of_valid hv),
      fun _ => ⟨by simp, le_rfl⟩⟩
  · exact ⟨hok, hfits, causeMatchesPhase_of_err e.toCause_ne_none rfl,
      phaseRecord_of_refused rfl rfl ⟨rfl, rfl, rfl, rfl, hv⟩, fun hemit => absurd hemit (by simp)⟩

/-- A NOP clears `EMIT`, which no item asks to be set. -/
theorem inv_of_execNop (h : Inv s) (ht : execNop s = .next t) : Inv t := by
  obtain rfl := Host.Outcome.next.inj ((execNop_eq s).symm.trans ht)
  obtain ⟨hok, hfits, hcause, ⟨hidle, hrun, hdone, hceil, hseed, hwidth, htap⟩, -⟩ := h
  have hrefused : ∀ {e}, RefusedRecord e s → RefusedRecord e { s with emit := false } :=
    fun ⟨hr, hc, ht, _, hv⟩ => ⟨hr, hc, ht, rfl, hv⟩
  exact ⟨hok, hfits, hcause, ⟨hidle, hrun, hdone, hceil, fun hp he => hrefused (hseed hp he),
    fun hp he => hrefused (hwidth hp he), fun hp he => hrefused (htap hp he)⟩, fun hemit => absurd hemit (by simp)⟩

theorem inv_of_step (h : Inv s) (ht : step s = .next t) : Inv t := by
  obtain ⟨-, hreset⟩ | ⟨-, hp, hstep⟩ | ⟨-, -, -, hstart⟩ | ⟨-, -, -, hnop⟩ := step_cases ht
  · obtain rfl := Host.Outcome.next.inj ((execReset_eq _).symm.trans hreset)
    exact inv_reset_values h.cfg_ok _
  · exact inv_of_execStep (s := advanceInputs s) h hp hstep
  · exact inv_of_execStart (s := advanceInputs s) h.cfg_ok hstart
  · exact inv_of_execNop (s := advanceInputs s) h hnop

end Sys2Proof.Machine
end

section
/-! ## The obligations of 10_state.md on the reset state, the widths and the invariants -/

namespace Sys2Proof.Machine

/-- Settles O34: a case for each operation; a STEP extends the record of its run by one successor and leaves it by one
of its exits (R37). -/
theorem everyCycleKeepsTheInvariants : Obligations.EveryCycleKeepsTheInvariants := fun _ _ => inv_of_step

/-- Settles O35: every write is cut to its register (R21, R31). -/
theorem everyCycleKeepsTheRegisterWidths : Obligations.EveryCycleKeepsTheRegisterWidths := fun _ _ => step_keeps_fits

/-- Settles O33: the state after reset is the reset values on one choice of parameters. -/
theorem resetStateMeetsTheInvariants : Obligations.ResetStateMeetsTheInvariants :=
  ⟨inv_reset_values (by decide) [], fun _ l hc => inv_reset_values hc l⟩

/-- Settles O3: the values stand in the definition (R38). -/
theorem resetStateHoldsTheTable : Obligations.ResetStateHoldsTheTable :=
  ⟨by decide, rfl, rfl, rfl, rfl, rfl, rfl, rfl, rfl, rfl⟩

end Sys2Proof.Machine
end

/-! # Proofs: 30_encoding.md, the encoder, the fetched word, the tap mask, and `ready` -/

section
/-! ## The encoder (30_encoding.md sections 2 and 3) -/

namespace Sys2Proof

/-- The encoder's word always fits the word (the family `EncodeFits`). -/
theorem encode_lt (c : Config) (i : Instr) : encode c i < 2 ^ fetchBits c := by
  cases i with
  | reset => exact Laws.EncodeFits.reset c
  | step => exact Laws.EncodeFits.step c
  | start seed taps width => exact Laws.EncodeFits.start seed taps width c
  | nop => exact Laws.EncodeFits.nop c

/-- A selector alone decodes to what it selects; with START's selector the operands come back from their fields. -/
theorem decodeWord_encode {c : Config} {i : Instr} (h : i.wellFormed c = true) : decodeWord c (encode c i) = i := by
  cases i with
  | reset => rw [encode, decodeWord, show selectOp (field 4 0 3) = .reset by decide]
  | step => rw [encode, decodeWord, show selectOp (field 2 0 3) = .step by decide]
  | start seed taps width =>
    obtain ⟨hs, ht, hw⟩ := wellFormed_start.mp h
    refine (decodeWord_selAndOperands c (sel := 1) (by decide) seed taps width).trans ?_
    rw [trunc_of_lt hs, trunc_of_lt ht, trunc_of_lt hw]
    rfl
  | nop => rw [encode, decodeWord, show selectOp (field 0 0 3) = .nop by decide]

theorem decode_of_lt {c : Config} {w : Nat} (h : w < 2 ^ fetchBits c) : decode c w = .instr (decodeWord c w) :=
  if_pos h

/-- What a word decodes to is an operation with operands of its ports' widths. -/
theorem decodeWord_wellFormed (c : Config) (w : Nat) : (decodeWord c w).wellFormed c = true := by
  unfold decodeWord
  split
  · rfl
  · rfl
  · exact wellFormed_start.mpr ⟨field_lt _ _ _, field_lt _ _ _, field_lt _ _ _⟩
  · rfl

end Sys2Proof
end

section
/-! ## The word of a cycle, and a word placed for one (30_encoding.md section 3) -/

namespace Sys2Proof

/-- The selector of a word's three signals is the word's low field. -/
theorem selWord_testBit (w : Nat) : selWord (w.testBit 2) (w.testBit 1) (w.testBit 0) = field w 0 3 := by
  simp only [selWord, field, trunc, Nat.toNat_testBit]
  omega

/-- Every number of the word's length is fetched from the ports and the `run` bit it stands for. -/
theorem fetchWord_inputsOfFetch {c : Config} {w : Nat} (h : w < 2 ^ fetchBits c) :
    fetchWord c (fetchRun w) (inputsOfFetch c w) = w := by
  have hrest : operandWord c (field w 3 c.wmax) (field w (3 + c.wmax) c.wmax) (field w (3 + 2 * c.wmax) c.wb) =
      w >>> 3 := by
    have hlt : w >>> 3 < 2 ^ operandBits c := by
      rw [Nat.shiftRight_eq_div_pow]
      exact Nat.div_lt_of_lt_mul (by rwa [← pow_add])
    have hfield : ∀ lo len, field w (3 + lo) len = field (w >>> 3) lo len := fun lo len => by
      rw [field, field, Nat.shiftRight_add]
    have h0 := hfield 0 c.wmax
    rw [Nat.add_zero] at h0
    rw [h0, hfield, hfield, operandWord_fields, trunc_of_lt hlt]
  rw [fetchWord, inputsOfFetch, fetchRun, selWord_testBit, hrest, field, trunc, Nat.shiftRight_zero,
    Nat.shiftRight_eq_div_pow]
  exact Nat.mod_add_div w 8

end Sys2Proof

namespace Sys2Proof.Machine

theorem fetched_lt (s : State) : fetched s < 2 ^ fetchBits s.cfg := fetchWord_lt _ _ _

theorem phaseFor_eq_run_iff (b : Bool) (p : Phase) : phaseFor b p = .run ↔ b = true := by
  cases b with
  | true => exact iff_of_true rfl rfl
  | false => cases p <;> simp [phaseFor]

/-- A phase that already fits the `run` bit is kept. -/
theorem phaseFor_of_fits {b : Bool} {p : Phase} (h : p = .run ↔ b = true) : phaseFor b p = p := by
  cases b with
  | true => exact (h.mpr rfl).symm
  | false =>
    cases p with
    | run => cases h.mp rfl
    | idle => rfl
    | done => rfl
    | err => rfl

/-- The placed word is the one fetched next. -/
theorem fetched_placeWord {s : State} {w : Nat} (h : w < 2 ^ fetchBits s.cfg) : fetched (placeWord s w) = w := by
  have hrun : decide ((placeWord s w).phase = .run) = fetchRun w := by
    rw [placeWord_phase, Bool.decide_congr (phaseFor_eq_run_iff _ _), Bool.decide_eq_true]
  rw [fetched, hrun]
  exact fetchWord_inputsOfFetch h

end Sys2Proof.Machine
end

section
/-! ## The tap mask (30_encoding.md R73) -/

namespace Sys2Proof.Machine

/-- The positions of a mask are one above the indices of its bits. -/
theorem decodeTaps_eq_bitIndices {wmax mask : Nat} (h : mask < 2 ^ wmax) :
    decodeTaps wmax mask = mask.bitIndices.map (· + 1) := by
  have hsorted : ((List.range wmax).filter fun i => mask.testBit i).SortedLT :=
    (List.pairwise_lt_range.filter _).sortedLT
  rw [decodeTaps, hsorted.eq_of_mem_iff Nat.bitIndices_sorted fun i => ?_]
  rw [List.mem_filter, List.mem_range, Nat.mem_bitIndices]
  exact and_iff_right_of_imp fun hb => lt_of_testBit_of_lt_two_pow hb h

/-- The mask of positions, written with the indices of their bits. -/
theorem encodeTaps_map_succ (l : List Nat) : encodeTaps (l.map (· + 1)) = (l.map (2 ^ ·)).sum := by
  induction l with
  | nil => rfl
  | cons i l ih => rw [List.map_cons, encodeTaps, ih, List.map_cons, List.sum_cons, Nat.add_sub_cancel]

theorem encodeTaps_decodeTaps {wmax mask : Nat} (h : mask < 2 ^ wmax) : encodeTaps (decodeTaps wmax mask) = mask := by
  rw [decodeTaps_eq_bitIndices h, encodeTaps_map_succ, Nat.sum_map_two_pow_bitIndices]

/-- A rising list of positions is the list of the indices of its mask's bits, moved up by one. -/
theorem bitIndices_encodeTaps {taps : List Nat} (hsorted : taps.Pairwise (· < ·)) (hpos : ∀ p ∈ taps, 1 ≤ p) :
    (encodeTaps taps).bitIndices.map (· + 1) = taps := by
  have hmap : (taps.map (· - 1)).map (· + 1) = taps := by
    rw [List.map_map]
    exact (List.map_congr_left fun p hp => Nat.sub_add_cancel (hpos p hp)).trans taps.map_id
  have hsorted' : (taps.map (· - 1)).SortedLT := by
    rw [← hmap, List.pairwise_map] at hsorted
    exact (hsorted.imp Nat.lt_of_succ_lt_succ).sortedLT
  rw [← hmap, encodeTaps_map_succ, Nat.bitIndices_sum_map_two_pow hsorted']

theorem encodeTaps_lt {wmax : Nat} {taps : List Nat} (hsorted : taps.Pairwise (· < ·))
    (hrange : ∀ p ∈ taps, 1 ≤ p ∧ p ≤ wmax) : encodeTaps taps < 2 ^ wmax := by
  refine Nat.lt_pow_two_of_testBit _ fun i hi => Bool.eq_false_iff.mpr fun hb => ?_
  have hmem : i + 1 ∈ taps := by
    rw [← bitIndices_encodeTaps hsorted fun p hp => (hrange p hp).1]
    exact List.mem_map_of_mem (Nat.mem_bitIndices.mpr hb)
  have := hrange _ hmem
  omega

theorem decodeTaps_encodeTaps {wmax : Nat} {taps : List Nat} (hsorted : taps.Pairwise (· < ·))
    (hrange : ∀ p ∈ taps, 1 ≤ p ∧ p ≤ wmax) : decodeTaps wmax (encodeTaps taps) = taps := by
  rw [decodeTaps_eq_bitIndices (encodeTaps_lt hsorted hrange),
    bitIndices_encodeTaps hsorted fun p hp => (hrange p hp).1]

end Sys2Proof.Machine
end

section
/-! ## The obligations of 30_encoding.md on the decoder, the placed word, the tap mask and `ready` -/

namespace Sys2Proof.Machine

/-- Settles O22: a selector by evaluation, START's operands by the fields they are put in (R74, R78). -/
theorem decodeOfEncodeIsTheOperation : Obligations.DecodeOfEncodeIsTheOperation := by
  intro c i h
  have hword := decodeWord_encode h
  exact ⟨hword, by rw [decode_of_lt (encode_lt c i), hword]⟩

/-- Settles O24: the selectors and bundles evaluate to the spec's values. -/
theorem wordsOfTheSpecDecode : Obligations.WordsOfTheSpecDecode := by
  unfold Obligations.WordsOfTheSpecDecode
  decide

/-- Settles O25: a fetched word is never beyond the wires, so that the decoder answers what the cycle runs. -/
theorem stepRunsTheDecodedOperation : Obligations.StepRunsTheDecodedOperation := by
  refine ⟨fun s i h => ?_, fun s => ⟨_, decode_of_lt (fetched_lt s), decodeWord_wellFormed _ _⟩⟩
  rw [decode_of_lt (fetched_lt s)] at h
  rw [step, Decoded.instr.inj h]

/-- Settles O26: the ports of a word give its bits back, and the phase is changed only where it does not fit. -/
theorem placedWordIsFetched : Obligations.PlacedWordIsFetched := by
  intro s nbits w hbits hfit
  rw [State.withFetchWord, trunc_of_lt hbits]
  exact ⟨fetched_placeWord hfit, rfl, rfl, phaseFor_of_fits⟩

/-- Settles O28: the positions of a mask are the indices of its bits moved up by one (R73). -/
theorem tapMaskIsTheSet : Obligations.TapMaskIsTheSet :=
  ⟨fun _ _ _ => mem_decodeTaps, fun _ _ => encodeTaps_decodeTaps,
    fun _ _ hsorted hrange => ⟨encodeTaps_lt hsorted hrange, decodeTaps_encodeTaps hsorted hrange⟩, by decide⟩

/-- Settles O31: with `rst = 0` and `start = 1` the selection is STEP in a run and START elsewhere (R78). -/
theorem readyMeansAStartIsAccepted : Obligations.ReadyMeansAStartIsAccepted := by
  intro s x rest hrst hstart
  rw [ports_ready_eq_true, fetched, decodeWord_fetchWord]
  by_cases hp : s.phase = .run <;> simp [hp, currentInputs, hrst, hstart]

end Sys2Proof.Machine
end

/-! # Proofs: 40_command_start.md, START's operands -/

section
/-! ## START's operands (40_command_start.md R102 to R106, 30_encoding.md R85) -/

namespace Sys2Proof.Machine

variable {wmax seed width : Nat} {taps : List Nat}

theorem validate_invalidWidth (h : wmax < width) : validate wmax seed taps width = some .invalidWidth :=
  if_pos (.inr h)

theorem validate_invalidSeed (hw : 1 ≤ width) (hmax : width ≤ wmax) (h : 2 ^ width ≤ seed) :
    validate wmax seed taps width = some .invalidSeed := by
  rw [validate, if_neg (by omega), if_pos (.inr h)]

theorem validate_invalidTap (hw : 1 ≤ width) (hmax : width ≤ wmax) (hs : 1 ≤ seed) (hlt : seed < 2 ^ width)
    (h : ∃ t ∈ taps, width < t) : validate wmax seed taps width = some .invalidTap := by
  obtain ⟨t, ht, hwt⟩ := h
  rw [validate, if_neg (by omega), if_neg (by omega), if_pos ⟨t, ht, .inr hwt⟩]

/-- The port-level form of operands that all three tests pass. -/
theorem validate_decodeTaps_eq_none {mask : Nat} (hw : 1 ≤ width) (hmax : width ≤ wmax) (hs : 1 ≤ seed)
    (hlt : seed < 2 ^ width) (hbit : mask.testBit 0 = false) (hmask : mask < 2 ^ width) :
    validate wmax seed (decodeTaps wmax mask) width = none := by
  have hpow : 2 ^ width ≤ 2 ^ wmax := Nat.pow_le_pow_right (by decide) hmax
  have hs' : ¬(seed = 0 ∨ seed >>> width ≠ 0) := by rw [shiftRight_ne_zero_iff]; omega
  have ht' : ¬(mask.testBit 0 = true ∨ mask >>> width ≠ 0) := by
    rw [shiftRight_ne_zero_iff, hbit]
    simpa using hmask
  rw [validate_decodeTaps seed width (hmask.trans_le hpow), if_neg (by omega), if_neg hs', if_neg ht']

end Sys2Proof.Machine
end

section
/-! ## The obligations of 40_command_start.md on START -/

namespace Sys2Proof.Machine

/-- Settles O6: operands that pass the port-level tests are valid, and the state after a valid START is known (R102). -/
theorem legalStartBeginsRun : Obligations.LegalStartBeginsRun := by
  intro s seed taps width hw hmax hs hlt hbit hmask
  have hpow : 2 ^ width ≤ 2 ^ s.cfg.wmax := Nat.pow_le_pow_right (by decide) hmax
  have hwf : (Instr.start seed taps width).wellFormed s.cfg = true :=
    wellFormed_start.mpr ⟨by omega, by omega, s.cfg.lt_two_pow_wb hmax⟩
  have hv := validate_decodeTaps_eq_none hw hmax hs hlt hbit hmask
  exact ⟨_, exec_start_of_valid hwf hv, rfl, rfl, rfl, rfl, rfl, rfl⟩

/-- Settles O9: a value too wide for its port fails its own test; for values that fit, the mask of a set is decoded to
the set (30_encoding.md R73, R85). -/
theorem functionAndPortLevelAgreeOnOperands : Obligations.FunctionAndPortLevelAgreeOnOperands := by
  refine ⟨fun c seed taps width => ⟨fun h => ?_, fun hw hmax h => ?_, fun hw hmax hs hlt ⟨t, ht, hbig⟩ => ?_⟩,
    fun s seed taps width hs hw hsorted hrange => ?_⟩
  · exact validate_invalidWidth ((lt_two_pow_bitlen c.wmax).trans_le h)
  · exact validate_invalidSeed hw hmax ((Nat.pow_le_pow_right (by decide) hmax).trans h)
  · exact validate_invalidTap hw hmax hs hlt ⟨t, ht, by omega⟩
  · obtain ⟨t, ht, hcause, -⟩ :=
      exec_start_flags (wellFormed_start.mpr ⟨hs, encodeTaps_lt hsorted hrange, hw⟩)
    rw [decodeTaps_encodeTaps hsorted hrange] at hcause
    exact ⟨t, ht, hcause⟩

/-- Settles O10: START looks at the old state for `cfg` and the later inputs only (R108). -/
theorem startForgetsTheOldState : Obligations.StartForgetsTheOldState :=
  fun _ _ seed taps width hcfg hin => execStart_congr hcfg hin seed taps width

end Sys2Proof.Machine
end

/-! # Proofs: 10_state.md and 20_memory.md, what each operation writes and reads, and runs of several cycles -/

section
/-! ## What each operation writes and what it does not read (10_state.md sections 2, 5 and 9) -/

namespace Sys2Proof.Machine

variable {s t : State}

theorem stepPhase_eq (s : State) : stepPhase s = s.phase ∨ stepPhase s = .done ∨ stepPhase s = .err := by
  rw [stepPhase]
  split
  · exact .inr (.inl rfl)
  · split
    · exact .inr (.inr rfl)
    · exact .inl rfl

theorem stepCause_eq (s : State) : stepCause s = s.cause ∨ (stepPhase s = .err ∧ stepCause s = .noClosure) := by
  rw [stepPhase, stepCause]
  split
  · exact .inl rfl
  · split
    · exact .inr ⟨rfl, rfl⟩
    · exact .inl rfl

/-- RESET looks at the old state for `cfg` and the later inputs only. -/
theorem execReset_congr {u : State} (hcfg : s.cfg = u.cfg) (hin : s.inputs = u.inputs) : execReset s = execReset u := by
  rw [execReset_eq, execReset_eq, hcfg, hin]

/-- START leaves a run or an error (40_command_start.md R102). -/
theorem execStart_phase {seed taps width : Nat} (ht : execStart seed taps width s = .next t) :
    t.phase = .run ∨ t.phase = .err := by
  obtain ⟨hv, rfl⟩ | ⟨e, hv, rfl⟩ := execStart_cases ht
  · exact .inl rfl
  · exact .inr rfl

/-- START leaves a count of 0, and a trajectory that is what it shows: the seed, or nothing. -/
theorem execStart_count_traj {seed taps width : Nat} (ht : execStart seed taps width s = .next t) :
    t.count = 0 ∧ t.traj = shownElement t := by
  obtain ⟨hv, rfl⟩ | ⟨e, hv, rfl⟩ := execStart_cases ht
  · exact ⟨rfl, rfl⟩
  · exact ⟨rfl, rfl⟩

/-- Whatever it performs, a cycle uses up one record of what the host drives. -/
theorem step_inputs (h : step s = .next t) : t.inputs = s.inputs.tail := by
  obtain ⟨-, hreset⟩ | ⟨-, -, hstep⟩ | ⟨-, -, -, hstart⟩ | ⟨-, -, -, hnop⟩ := step_cases h
  · obtain rfl := Host.Outcome.next.inj ((execReset_eq _).symm.trans hreset)
    rfl
  · obtain rfl := Host.Outcome.next.inj ((execStep_eq_exit _).symm.trans hstep)
    rfl
  · obtain ⟨-, rfl⟩ | ⟨e, -, rfl⟩ := execStart_cases hstart <;> rfl
  · obtain rfl := Host.Outcome.next.inj ((execNop_eq _).symm.trans hnop)
    rfl

end Sys2Proof.Machine
end

section
/-! ## Cycles of a run (41_transition_step.md R130) -/

namespace Sys2Proof.Machine

variable {s t : State}

theorem NoReset.currentInputs (h : NoReset s) : (currentInputs s).rst = false := by
  cases hs : s.inputs with
  | nil => rw [currentInputs_nil hs]; rfl
  | cons x rest => rw [currentInputs_cons hs]; exact h x (by simp [hs])

theorem NoReset.of_step (h : NoReset s) (ht : step s = .next t) : NoReset t :=
  fun x hx => h x (List.mem_of_mem_tail (step_inputs ht ▸ hx))

/-- A cycle of a run without `rst`, as one state. -/
theorem step_of_run_eq (hp : s.phase = .run) (hr : (Machine.currentInputs s).rst = false) :
    step s = .next
      { stepWritten (advanceInputs s) with
        phase := stepPhase (advanceInputs s), cause := stepCause (advanceInputs s) } := by
  rw [step_of_run hp hr, exec_step, execStep_eq_exit]

/-- A STEP of a state of the invariants: one transition more, after which the run goes on below the ceiling or has
ended. -/
theorem execStep_of_inv (h : Inv s) (hp : s.phase = .run) :
    ∃ t, execStep s = .next t ∧ Inv t ∧ t.inputs = s.inputs ∧ t.width = s.width ∧ t.count = s.count + 1 ∧
      (t.phase = .run ∨ t.phase = .done ∨ (t.phase = .err ∧ t.cause = .noClosure)) := by
  obtain ⟨⟨hrec, hc, -⟩, -⟩ := h.runningRecord hp
  refine ⟨_, execStep_eq_exit s, inv_of_execStep h hp (execStep_eq_exit s), rfl, rfl,
    RunRecord.count_stepWritten hrec hc, ?_⟩
  obtain ⟨-, ht⟩ | ⟨-, -, ht⟩ | ⟨-, -, ht⟩ := execStep_cases (execStep_eq_exit s)
  · exact .inr (.inl (congrArg State.phase ht))
  · exact .inr (.inr ⟨congrArg State.phase ht, congrArg State.cause ht⟩)
  · exact .inl ((congrArg State.phase ht).trans hp)

/-- A run with `d` transitions left below its ceiling ends within them. -/
theorem exists_end_of_run (d : Nat) (h : Inv s) (hp : s.phase = .run) (hr : NoReset s)
    (hd : s.count + d = 2 ^ s.width - 1) :
    ∃ k t, 1 ≤ k ∧ k ≤ d ∧ runFor k s = .next t ∧
      (t.phase = .done ∨ (t.phase = .err ∧ t.cause = .noClosure)) ∧ t.count = s.count + k := by
  induction d generalizing s with
  | zero =>
    obtain ⟨⟨-, hc, -⟩, -⟩ := h.runningRecord hp
    omega
  | succ d ih =>
    obtain ⟨t, ht, hinv, -, hwidth, hcount, hphase⟩ := execStep_of_inv (s := advanceInputs s) h hp
    rw [advanceInputs_width] at hwidth
    rw [advanceInputs_count] at hcount
    have hstep : step s = .next t := (step_of_run hp (NoReset.currentInputs hr)).trans ht
    obtain hrun | hend := hphase
    · obtain ⟨k, u, hk, hkd, hu, hphase, hcount'⟩ :=
        ih hinv hrun (NoReset.of_step hr hstep) (by rw [hwidth, hcount]; omega)
      exact ⟨k + 1, u, by omega, by omega, (runFor_succ k hstep).trans hu, hphase, by omega⟩
    · exact ⟨1, t, le_rfl, by omega, runFor_succ 0 hstep, hend, hcount⟩

/-- No STEP writes the operands, so that they stay as long as every cycle is one. -/
theorem runFor_keeps_operands (k : Nat) (hr : NoReset s)
    (hrun : ∀ j < k, ∀ u : State, runFor j s = .next u → u.phase = .run) (ht : runFor k s = .next t) :
    t.width = s.width ∧ t.seed = s.seed ∧ t.taps = s.taps ∧ t.cfg = s.cfg := by
  induction k generalizing s with
  | zero =>
    obtain rfl := Host.Outcome.next.inj ht
    exact ⟨rfl, rfl, rfl, rfl⟩
  | succ k ih =>
    have hstep := step_of_run_eq (hrun 0 k.succ_pos s rfl) (NoReset.currentInputs hr)
    rw [runFor_succ k hstep] at ht
    have hlater := ih (NoReset.of_step hr hstep)
      (fun j hj u hu => hrun (j + 1) (Nat.succ_lt_succ hj) u ((runFor_succ j hstep).trans hu)) ht
    exact hlater

end Sys2Proof.Machine
end

section
/-! ## Cycles in which the host asks for nothing -/

namespace Sys2Proof.Machine

variable {s t : State} {k : Nat}

theorem AsksNothingFor.currentInputs (h : AsksNothingFor (k + 1) s) :
    (currentInputs s).rst = false ∧ (currentInputs s).start = false := by
  cases hs : s.inputs with
  | nil => rw [currentInputs_nil hs]; exact ⟨rfl, rfl⟩
  | cons x rest => rw [currentInputs_cons hs]; exact h x (by simp [hs])

theorem AsksNothingFor.of_step (h : AsksNothingFor (k + 1) s) (ht : step s = .next t) : AsksNothingFor k t := by
  intro x hx
  refine h x ?_
  rw [step_inputs ht] at hx
  cases hs : s.inputs with
  | nil => simp [hs] at hx
  | cons y rest =>
    rw [hs, List.tail_cons] at hx
    exact List.mem_cons_of_mem y hx

/-- Outside a run such a cycle is a NOP. -/
theorem AsksNothingFor.step_eq (h : AsksNothingFor (k + 1) s) (hp : s.phase ≠ .run) :
    step s = .next { s with emit := false, inputs := s.inputs.tail } :=
  have ⟨hr, hs⟩ := AsksNothingFor.currentInputs h
  step_of_no_request_eq hp hr hs

/-- Outside a run such cycles change `EMIT` alone. -/
theorem runFor_of_asksNothing (k : Nat) (hp : s.phase ≠ .run) (h : AsksNothingFor (k + 1) s) :
    runFor (k + 1) s = .next { s with emit := false, inputs := s.inputs.drop (k + 1) } := by
  induction k generalizing s with
  | zero => rw [runFor_succ 0 (h.step_eq hp), runFor_zero, List.drop_one]
  | succ k ih =>
    have hstep := AsksNothingFor.step_eq h hp
    have hrest := ih (s := { s with emit := false, inputs := s.inputs.tail }) hp (AsksNothingFor.of_step h hstep)
    rw [runFor_succ _ hstep, hrest, List.drop_tail]

/-- Such a cycle appends to the trajectory what it shows: a STEP its value, a NOP nothing. -/
theorem traj_eq_append_shownElement (hr : (Machine.currentInputs s).rst = false)
    (hs : (Machine.currentInputs s).start = false) (ht : step s = .next t) : t.traj = s.traj ++ shownElement t := by
  by_cases hp : s.phase = .run
  · obtain rfl := Host.Outcome.next.inj ((step_of_run_eq hp hr).symm.trans ht)
    rfl
  · obtain rfl := Host.Outcome.next.inj ((step_of_no_request_eq hp hr hs).symm.trans ht)
    exact s.traj.append_nil.symm

theorem collected_succ (k : Nat) (h : step s = .next t) : collected (k + 1) s = shownElement t ++ collected k t := by
  rw [collected, h]

/-- What the host collects over such cycles is what they append to the trajectory. -/
theorem traj_append_collected (h : AsksNothingFor k s) (ht : runFor k s = .next t) :
    s.traj ++ collected k s = t.traj := by
  induction k generalizing s with
  | zero =>
    obtain rfl := Host.Outcome.next.inj ht
    exact s.traj.append_nil
  | succ k ih =>
    obtain ⟨u, hu⟩ := step_answers s
    obtain ⟨hr, hs⟩ := AsksNothingFor.currentInputs h
    rw [runFor_succ k hu] at ht
    rw [collected_succ k hu, ← List.append_assoc, ← traj_eq_append_shownElement hr hs hu]
    exact ih (AsksNothingFor.of_step h hu) ht

end Sys2Proof.Machine
end

section
/-! ## The obligations of 10_state.md, 20_memory.md and 60_exceptions.md on operations and cycles -/

namespace Sys2Proof.Machine

/-- Settles O13: what a STEP has written before it compares, with the flags of its exit (10_state.md section 9). -/
theorem stepFrame : Obligations.StepFrame := fun s =>
  ⟨_, execStep_eq_exit s, rfl, rfl, rfl, rfl, rfl, rfl, read_stepWritten_length s, length_stepWritten s,
    fun _ hk => read_stepWritten_of_lt hk, stepCause_eq s, stepPhase_eq s⟩

/-- Settles O38: RESET and START overwrite the trajectory, STEP and NOP pass it on (20_memory.md section 1). -/
theorem noOperationReadsTheTrajectory : Obligations.NoOperationReadsTheTrajectory := by
  intro i s t m h
  cases i with
  | reset => exact ⟨t, (execReset_congr (u := s) rfl rfl).trans h, rfl⟩
  | step =>
    obtain rfl := Host.Outcome.next.inj ((execStep_eq_exit s).symm.trans h)
    exact ⟨_, execStep_eq_exit _, rfl⟩
  | start seed taps width => exact ⟨t, (execStart_congr (u := s) rfl rfl seed taps width).trans h, rfl⟩
  | nop =>
    obtain rfl := Host.Outcome.next.inj ((execNop_eq s).symm.trans h)
    exact ⟨_, execNop_eq _, rfl⟩

/-- Settles O39: RESET and START overwrite the flags, STEP and NOP compute nothing else from them (10_state.md
section 5). -/
theorem noOperationReadsTheFlags : Obligations.NoOperationReadsTheFlags := by
  intro i s t p c b h
  cases i with
  | reset => exact ⟨t, (execReset_congr (u := s) rfl rfl).trans h, rfl⟩
  | step =>
    obtain rfl := Host.Outcome.next.inj ((execStep_eq_exit s).symm.trans h)
    exact ⟨_, execStep_eq_exit _, rfl⟩
  | start seed taps width =>
    have hcongr := execStart_congr (s := { s with phase := p, cause := c, emit := b }) (u := s) rfl rfl seed taps width
    exact ⟨t, hcongr.trans h, rfl⟩
  | nop =>
    obtain rfl := Host.Outcome.next.inj ((execNop_eq s).symm.trans h)
    exact ⟨_, execNop_eq _, rfl⟩

/-- Settles O41: the phase each operation leaves; `DONE` is the exit of a STEP whose value is the seed (R22). -/
theorem phaseChangesOnlyAsListed : Obligations.PhaseChangesOnlyAsListed := by
  refine ⟨fun s t ht => ?_, fun s t seed taps width => execStart_phase, fun s t ht => ?_, fun s t hp ht => ?_,
    fun s t ht hdone hne => ?_⟩
  · obtain rfl := Host.Outcome.next.inj ((execReset_eq s).symm.trans ht)
    rfl
  · obtain rfl := Host.Outcome.next.inj ((execNop_eq s).symm.trans ht)
    rfl
  · obtain rfl := Host.Outcome.next.inj ((execStep_eq_exit s).symm.trans ht)
    exact hp ▸ stepPhase_eq s
  · obtain ⟨-, hreset⟩ | ⟨-, hp, hstep⟩ | ⟨-, -, -, hstart⟩ | ⟨-, -, -, hnop⟩ := step_cases ht
    · obtain rfl := Host.Outcome.next.inj ((execReset_eq _).symm.trans hreset)
      cases hdone
    · obtain ⟨hseed, rfl⟩ | ⟨-, -, rfl⟩ | ⟨-, -, rfl⟩ := execStep_cases hstep
      · exact ⟨hp, hseed⟩
      · cases hdone
      · exact absurd hdone hne
    · have := execStart_phase hstart
      simp [hdone] at this
    · obtain rfl := Host.Outcome.next.inj ((execNop_eq _).symm.trans hnop)
      exact absurd hdone hne

/-- Settles O42: a case for each operation; below the ceiling, where the invariants keep a run, the count is not cut
(60_exceptions.md R202). -/
theorem countCountsTransitions : Obligations.CountCountsTransitions := by
  intro s t hinv ht
  obtain ⟨-, -, -, -, hfits, -⟩ := (inv_of_step hinv ht).fits
  refine ⟨hfits, rfl, ?_⟩
  obtain ⟨hr, hreset⟩ | ⟨hr, hp, hstep⟩ | ⟨hr, hp, hs, hstart⟩ | ⟨hr, hp, hs, hnop⟩ := step_cases ht
  · obtain rfl := Host.Outcome.next.inj ((execReset_eq _).symm.trans hreset)
    simp [hr]
  · obtain ⟨u, hu, -, -, -, hcount, -⟩ := execStep_of_inv (s := advanceInputs s) hinv hp
    obtain rfl := Host.Outcome.next.inj (hu.symm.trans hstep)
    simpa [hr, hp] using hcount
  · simpa [hr, hp, hs] using (execStart_count_traj hstart).1
  · obtain rfl := Host.Outcome.next.inj ((execNop_eq _).symm.trans hnop)
    simp [hr, hp, hs]

/-- Settles O40: every cycle of a run is a STEP, which writes no operand register (20_memory.md section 3). -/
theorem theRunsOperandsAreFixed : Obligations.TheRunsOperandsAreFixed :=
  fun k _ _ hr hrun ht => runFor_keeps_operands k hr hrun ht

/-- Settles O5: outside a run every cycle without a request is a NOP, which leaves the state outside a run. -/
theorem resultIsHeldUntilTheNextCommand : Obligations.ResultIsHeldUntilTheNextCommand :=
  fun k _ => runFor_of_asksNothing k

/-- Settles O36: by the transitions left below the ceiling, of which every STEP takes one (60_exceptions.md R199). -/
theorem everyRunEnds : Obligations.EveryRunEnds := by
  intro s hinv hp hr
  obtain ⟨⟨-, hc, -⟩, -⟩ := hinv.runningRecord hp
  obtain ⟨k, t, hk, hkd, ht, hend⟩ := exists_end_of_run (2 ^ s.width - 1 - s.count) hinv hp hr (by omega)
  exact ⟨k, t, hk, by omega, ht, hend⟩

/-- Settles O37: the START's element is what it shows, and the later cycles append what they show; a closed run's last
element is the seed (20_memory.md R63). -/
theorem theStreamIsTheTrajectory : Obligations.TheStreamIsTheTrajectory := by
  refine ⟨fun k s t x rest hin hp hr hs hquiet ht => ?_, fun s hinv hlast => ?_⟩
  · have hstart := step_cons_of_start (rest := rest) hp hr hs
    rw [show { s with inputs := x :: rest } = s by rw [← hin]] at hstart
    obtain ⟨u, hu⟩ := step_answers s
    have htraj := (execStart_count_traj (hstart.symm.trans hu)).2
    have hin' : u.inputs = rest := by rw [step_inputs hu, hin, List.tail_cons]
    have hquiet' : AsksNothingFor k u := fun y hy => hquiet y (hin' ▸ hy)
    rw [runFor_succ k hu] at ht
    rw [collected_succ k hu, ← htraj, traj_append_collected hquiet' ht]
  · obtain ⟨-, hdone⟩ := ports_outLast_eq_true.mp hlast
    obtain ⟨⟨-, -, -, -, hlen, -, hread, -⟩, -, hreg, -⟩ := hinv.closedRecord hdone
    refine ⟨hreg, ?_, congrArg Phase.code hdone⟩
    rw [List.getLast?_eq_getElem?, hlen, Nat.add_sub_cancel, ← hreg]
    exact hread

end Sys2Proof.Machine
end

/-! # Proofs: 41_transition_step.md, the feedback bit, the order of the taps, and the structure of the transition -/

section
/-! ## The exclusive OR of bits over a list of taps -/

namespace Sys2Proof.Machine

theorem xorBits_congr {taps : List Nat} {f g : Nat → Bool} (h : ∀ t ∈ taps, f t = g t) :
    xorBits taps f = xorBits taps g := by
  induction taps with
  | nil => rfl
  | cons t ts ih =>
    obtain ⟨ht, hts⟩ := List.forall_mem_cons.mp h
    rw [xorBits_cons, xorBits_cons, ht, ih hts]

/-- A tap left out counts as one whose bit is 0. -/
theorem xorBits_filter (taps : List Nat) (p f : Nat → Bool) :
    xorBits (taps.filter p) f = xorBits taps fun t => p t && f t := by
  induction taps with
  | nil => rfl
  | cons t ts ih => cases hp : p t <;> simp [hp, ih]

theorem xorOver_perm {taps taps' : List Nat} (h : taps.Perm taps') (f : Nat → Nat) :
    xorOver taps f = xorOver taps' f := by
  induction h with
  | nil => rfl
  | cons t _ ih => rw [xorOver_cons, xorOver_cons, ih]
  | swap t u ts => simp only [xorOver_cons, Nat.xor_left_comm]
  | trans _ _ ih ih' => exact ih.trans ih'

end Sys2Proof.Machine
end

section
/-! ## The accumulator and the feedback bit (41_transition_step.md R131, R132) -/

namespace Sys2Proof.Machine

variable {r w : Nat} {taps : List Nat}

theorem testBit_acc (r : Nat) (taps : List Nat) (i : Nat) :
    (acc r taps).testBit i = Bool.xor (r.testBit i) (xorBits taps fun t => r.testBit (t - 1 + i)) := by
  simp only [acc, Nat.testBit_xor, testBit_xorOver, Nat.testBit_shiftRight]

theorem fb_eq_ite (r : Nat) (taps : List Nat) : fb r taps = if acc r taps &&& 2 ≠ 0 then 1 else 0 := by
  rw [fb_eq_toNat, show acc r taps &&& 2 = ((acc r taps).testBit 1).toNat * 2 ^ 1 from Nat.and_two_pow _ 1]
  cases (acc r taps).testBit 1 <;> rfl

/-- The feedback bit in closed form (41_transition_step.md section 4). -/
theorem fb_eq_xorBits (htaps : ∀ t ∈ taps, 1 ≤ t) :
    fb r taps = (Bool.xor (r.testBit 1) (xorBits taps r.testBit)).toNat := by
  have hbits : (xorBits taps fun t => r.testBit (t - 1 + 1)) = xorBits taps r.testBit :=
    xorBits_congr fun t ht => by rw [Nat.sub_add_cancel (htaps t ht)]
  rw [fb_eq_toNat, testBit_acc, hbits]

/-- Flipping bit index 0 leaves every higher bit. -/
theorem testBit_xor_one {i : Nat} (hi : 1 ≤ i) : (r ^^^ 1).testBit i = r.testBit i := by
  obtain ⟨j, rfl⟩ := Nat.exists_eq_add_of_le' hi
  rw [Nat.testBit_xor, Nat.testBit_add_one 1]
  simp

theorem fb_xor_one (htaps : ∀ t ∈ taps, 1 ≤ t) : fb (r ^^^ 1) taps = fb r taps := by
  rw [fb_eq_xorBits htaps, fb_eq_xorBits htaps, testBit_xor_one le_rfl,
    xorBits_congr fun t ht => testBit_xor_one (htaps t ht)]

theorem next_xor_one (htaps : ∀ t ∈ taps, 1 ≤ t) : next (r ^^^ 1) taps w = next r taps w := by
  have hshift : (r ^^^ 1) >>> 1 = r >>> 1 := by
    rw [Nat.shiftRight_xor_distrib]
    exact Nat.xor_zero _
  rw [next, next, fb_xor_one htaps, hshift]

/-- A tap at the width reads the bit above the register. -/
theorem fb_filter_ne_width (hw : 1 ≤ w) (hr : r < 2 ^ w) :
    fb r (taps.filter fun t => decide (t ≠ w)) = fb r taps := by
  rw [fb_eq_toNat, fb_eq_toNat, testBit_acc, testBit_acc, xorBits_filter, xorBits_congr fun t _ => ?_]
  by_cases ht : t = w
  · rw [ht, Nat.sub_add_cancel hw, Nat.testBit_lt_two_pow hr, Bool.and_false]
  · simp [ht]

end Sys2Proof.Machine
end

section
/-! ## The order of the taps (41_transition_step.md R134) -/

namespace Sys2Proof.Machine

variable {taps taps' : List Nat}

theorem acc_perm (h : taps.Perm taps') (r : Nat) : acc r taps = acc r taps' := by
  rw [acc, acc, xorOver_perm h]

theorem next_perm (h : taps.Perm taps') (r w : Nat) : next r taps w = next r taps' w := by
  rw [next, next, fb, fb, acc_perm h]

theorem validate_perm (h : taps.Perm taps') (wmax seed width : Nat) :
    validate wmax seed taps width = validate wmax seed taps' width := by
  simp only [validate, h.mem_iff]

theorem simulateLoop_perm (h : taps.Perm taps') (seed width fuel r k : Nat) (traj : List Nat) :
    simulateLoop seed taps width fuel r k traj = simulateLoop seed taps' width fuel r k traj := by
  induction fuel generalizing r k traj with
  | zero => rfl
  | succ fuel ih => simp only [simulateLoop, next_perm h, ih]

theorem simulate_perm (h : taps.Perm taps') (wmax seed width : Nat) :
    simulate wmax seed taps width = simulate wmax seed taps' width := by
  rw [simulate, simulate, validate_perm h, simulateLoop_perm h]

end Sys2Proof.Machine
end

section
/-! ## The upper bits as a register of their own (41_transition_step.md section 4) -/

namespace Sys2Proof.Machine

variable {r u v w x : Nat} {taps : List Nat}

theorem upper_eq_div (r : Nat) : upper r = r / 2 := Nat.shiftRight_eq_div_pow r 1

theorem upper_lt (hw : 1 ≤ w) (hr : r < 2 ^ w) : upper r < 2 ^ (w - 1) := by
  rw [upper_eq_div]
  exact Nat.div_lt_of_lt_mul (by rwa [mul_comm, ← pow_succ, Nat.sub_add_cancel hw])

/-- A number of `n` bits and the bit above them are determined by their sum. -/
theorem add_two_pow_mul_toNat_inj {n a a' : Nat} {b b' : Bool} (ha : a < 2 ^ n) (ha' : a' < 2 ^ n) :
    a + 2 ^ n * b.toNat = a' + 2 ^ n * b'.toNat ↔ a = a' ∧ b = b' := by
  cases b <;> cases b' <;> simp <;> omega

/-- Putting a bit above a number of `n` bits. -/
theorem or_toNat_shiftLeft {n a : Nat} (b : Bool) (ha : a < 2 ^ n) :
    a ||| (b.toNat <<< n) = a + 2 ^ n * b.toNat := by
  rw [Nat.or_comm, ← Nat.shiftLeft_add_eq_or_of_lt ha, Nat.shiftLeft_eq, mul_comm, Nat.add_comm]

/-- The taps of a legal tap set are positions of the register. -/
theorem taps_in_register (htaps : ∀ t ∈ taps, 2 ≤ t ∧ t ≤ w) : ∀ t ∈ taps, 1 ≤ t ∧ t ≤ w :=
  fun t ht => (htaps t ht).imp_left Nat.le_of_succ_le

/-- `h` reads the bits below index `w - 1` only. -/
theorem upperFeedback_congr (hw : 2 ≤ w) (htaps : ∀ t ∈ taps, 1 ≤ t)
    (h : ∀ i < w - 1, u.testBit i = v.testBit i) : upperFeedback u taps w = upperFeedback v taps w := by
  rw [upperFeedback, upperFeedback, h 0 (by omega), xorBits_congr fun t ht => ?_]
  obtain ⟨hmem, hle⟩ := List.mem_filter.mp ht
  have h1 := htaps t hmem
  have h2 := of_decide_eq_true hle
  exact h (t - 1) (by omega)

/-- The feedback of a register is `h` of its upper bits: bit index `t` is the upper bits' index `t - 1`, and a tap at
the width reads nothing. -/
theorem fb_eq_upperFeedback (htaps : ∀ t ∈ taps, 1 ≤ t ∧ t ≤ w) (hr : r < 2 ^ w) :
    fb r taps = (upperFeedback (upper r) taps w).toNat := by
  have hupper : ∀ i, (upper r).testBit i = r.testBit (i + 1) := fun i => by
    rw [upper, Nat.testBit_shiftRight, Nat.add_comm]
  rw [fb_eq_xorBits fun t ht => (htaps t ht).1, upperFeedback, hupper, xorBits_filter,
    xorBits_congr (f := r.testBit) fun t ht => ?_]
  obtain ⟨h1, hle⟩ := htaps t ht
  rw [hupper, Nat.sub_add_cancel h1]
  by_cases hlt : t ≤ w - 1
  · simp [hlt]
  · obtain rfl : t = w := by omega
    simp [hlt, Nat.testBit_lt_two_pow hr]

/-- Bit index 0 enters `h` by itself alone, since no tap is 1. -/
theorem upperFeedback_two_mul_add_one (htaps : ∀ t ∈ taps, 2 ≤ t) :
    upperFeedback (2 * u + 1) taps w = !upperFeedback (2 * u) taps w := by
  have hrest : ∀ t ∈ taps.filter fun t => decide (t ≤ w - 1),
      (2 * u + 1).testBit (t - 1) = (2 * u).testBit (t - 1) := fun t ht => by
    have := htaps t (List.mem_of_mem_filter ht)
    obtain ⟨i, hi⟩ : ∃ i, t - 1 = i + 1 := ⟨t - 2, by omega⟩
    rw [hi, Nat.testBit_add_one, Nat.testBit_add_one]
    congr 1
    omega
  rw [upperFeedback, upperFeedback, xorBits_congr hrest]
  simp

theorem half_lt (hw : 2 ≤ w) (hu : u < 2 ^ (w - 1)) : u / 2 < 2 ^ (w - 2) :=
  Nat.div_lt_of_lt_mul (by rwa [mul_comm, ← pow_succ, show w - 2 + 1 = w - 1 by omega])

theorem upperNext_eq_add (hw : 2 ≤ w) (hu : u < 2 ^ (w - 1)) :
    upperNext u taps w = u / 2 + 2 ^ (w - 2) * (upperFeedback u taps w).toNat := by
  rw [upperNext, Nat.shiftRight_eq_div_pow, pow_one, or_toNat_shiftLeft _ (half_lt hw hu)]

theorem upperNext_lt (hw : 2 ≤ w) (hu : u < 2 ^ (w - 1)) : upperNext u taps w < 2 ^ (w - 1) := by
  have hpow : 2 ^ (w - 1) = 2 ^ (w - 2) * 2 := by rw [← pow_succ, show w - 2 + 1 = w - 1 by omega]
  have hb := Nat.mul_le_mul_left (2 ^ (w - 2)) (upperFeedback u taps w).toNat_le
  rw [upperNext_eq_add hw hu]
  omega

/-- So a number is determined by all its bits but index 0, and by `h`. -/
theorem eq_of_upperFeedback_eq (htaps : ∀ t ∈ taps, 2 ≤ t) (hdiv : u / 2 = v / 2)
    (hfb : upperFeedback u taps w = upperFeedback v taps w) : u = v := by
  have hflip := upperFeedback_two_mul_add_one (u := u / 2) (w := w) htaps
  by_contra hne
  obtain ⟨hu, hv⟩ | ⟨hu, hv⟩ :
      (u = 2 * (u / 2) ∧ v = 2 * (u / 2) + 1) ∨ (u = 2 * (u / 2) + 1 ∧ v = 2 * (u / 2)) := by omega
  all_goals
    rw [hu, hv, hflip] at hfb
    simp at hfb

/-- `g` is one-to-one: it keeps the bits it moves down, and the one it drops is read off its feedback. -/
theorem upperNext_injOn (hw : 2 ≤ w) (htaps : ∀ t ∈ taps, 2 ≤ t) :
    Set.InjOn (fun u => upperNext u taps w) (Set.Iio (2 ^ (w - 1))) := by
  intro u hu v hv heq
  simp only [upperNext_eq_add hw hu, upperNext_eq_add hw hv] at heq
  obtain ⟨hdiv, hfb⟩ := (add_two_pow_mul_toNat_inj (half_lt hw hu) (half_lt hw hv)).mp heq
  exact eq_of_upperFeedback_eq htaps hdiv hfb

/-- `g` maps the numbers of `w - 1` bits one-to-one onto themselves. -/
theorem upperNext_bijOn (hw : 2 ≤ w) (htaps : ∀ t ∈ taps, 2 ≤ t) :
    Set.BijOn (fun u => upperNext u taps w) (Set.Iio (2 ^ (w - 1))) (Set.Iio (2 ^ (w - 1))) :=
  ((Set.finite_Iio _).injOn_iff_bijOn_of_mapsTo fun _ hu => upperNext_lt hw hu).mp (upperNext_injOn hw htaps)

/-- The successor as its upper register with the feedback bit above it. -/
theorem next_eq_add (htaps : ∀ t ∈ taps, 1 ≤ t ∧ t ≤ w) (hw : 1 ≤ w) (hr : r < 2 ^ w) :
    next r taps w = upper r + 2 ^ (w - 1) * (upperFeedback (upper r) taps w).toNat := by
  rw [next, fb_eq_upperFeedback htaps hr]
  exact or_toNat_shiftLeft _ (upper_lt hw hr)

/-- The upper bits of the successor are the successor of the upper bits under `g`. -/
theorem upper_next (hw : 2 ≤ w) (htaps : ∀ t ∈ taps, 1 ≤ t ∧ t ≤ w) (hr : r < 2 ^ w) :
    upper (next r taps w) = upperNext (upper r) taps w := by
  have hpow : 2 ^ (w - 1) = 2 * 2 ^ (w - 2) := by rw [← pow_succ', show w - 2 + 1 = w - 1 by omega]
  rw [next_eq_add htaps (by omega) hr, upperNext_eq_add hw (upper_lt (by omega) hr), hpow, mul_assoc, upper_eq_div]
  exact Nat.add_mul_div_left _ _ (by decide)

/-- Every number is its upper bits, moved up again, with its bit index 0. -/
theorem upper_shiftLeft_or (x : Nat) : (upper x <<< 1) ||| (x.testBit 0).toNat = x := by
  rw [← Nat.shiftLeft_add_eq_or_of_lt (i := 1) (Bool.toNat_lt _), Nat.shiftLeft_eq, upper_eq_div, Nat.toNat_testBit]
  omega

end Sys2Proof.Machine
end

section
/-! ## The image and the predecessors of a state (41_transition_step.md R142) -/

namespace Sys2Proof.Machine

variable {r w x y : Nat} {taps : List Nat}

/-- The closure parity is the top bit against `h`. -/
theorem closureParity_eq_xor (x : Nat) (taps : List Nat) (w : Nat) :
    closureParity x taps w = Bool.xor (upperFeedback x taps w) (x.testBit (w - 1)) := by
  rw [closureParity, upperFeedback, Bool.xor_right_comm]

theorem closureParity_eq_false_iff :
    closureParity x taps w = false ↔ upperFeedback x taps w = x.testBit (w - 1) := by
  rw [closureParity_eq_xor]
  exact bne_eq_false_iff_eq

/-- The states whose successor is `x`: their upper bits are `x`'s low ones, and `x` has even parity. -/
theorem next_eq_iff (hw : 2 ≤ w) (htaps : ∀ t ∈ taps, 1 ≤ t ∧ t ≤ w) (hr : r < 2 ^ w) (hx : x < 2 ^ w) :
    next r taps w = x ↔ upper r = trunc (w - 1) x ∧ closureParity x taps w = false := by
  have hsplit : trunc (w - 1) x + 2 ^ (w - 1) * (x.testBit (w - 1)).toNat = x :=
    trunc_add_top_bit (by rwa [Nat.sub_add_cancel (by omega)])
  have hlow : upperFeedback (trunc (w - 1) x) taps w = upperFeedback x taps w :=
    upperFeedback_congr hw (fun t ht => (htaps t ht).1) fun i hi => by simp [testBit_trunc, hi]
  rw [closureParity_eq_false_iff, next_eq_add htaps (by omega) hr]
  nth_rw 1 [← hsplit]
  rw [add_two_pow_mul_toNat_inj (upper_lt (by omega) hr) (trunc_lt _ _)]
  refine and_congr_right fun hupper => ?_
  rw [hupper, hlow]

theorem testBit_top_eq_of_half_eq (hw : 2 ≤ w) (hdiv : x / 2 = y / 2) : x.testBit (w - 1) = y.testBit (w - 1) := by
  rw [show w - 1 = w - 2 + 1 by omega, Nat.testBit_add_one, Nat.testBit_add_one, hdiv]

/-- A state of even parity is determined by its upper bits. -/
theorem eq_of_upper_eq (hw : 2 ≤ w) (htaps : ∀ t ∈ taps, 2 ≤ t) (hx : closureParity x taps w = false)
    (hy : closureParity y taps w = false) (h : upper x = upper y) : x = y := by
  have hdiv : x / 2 = y / 2 := by rwa [← upper_eq_div, ← upper_eq_div]
  have htop := testBit_top_eq_of_half_eq hw hdiv
  refine eq_of_upperFeedback_eq htaps hdiv (w := w) ?_
  rw [closureParity_eq_false_iff.mp hx, closureParity_eq_false_iff.mp hy, htop]

/-- Of the two states with given upper bits exactly one has even parity. -/
theorem closureParity_two_mul_add_one (hw : 2 ≤ w) (htaps : ∀ t ∈ taps, 2 ≤ t) (u : Nat) :
    closureParity (2 * u + 1) taps w = !closureParity (2 * u) taps w := by
  have htop : (2 * u + 1).testBit (w - 1) = (2 * u).testBit (w - 1) := testBit_top_eq_of_half_eq hw (by omega)
  rw [closureParity_eq_xor, closureParity_eq_xor, htop, upperFeedback_two_mul_add_one htaps, Bool.not_xor]

theorem pred_mask_eq (hw : 1 ≤ w) (x : Nat) : (x <<< 1) &&& (2 ^ w - 1) = 2 * trunc (w - 1) x := by
  rw [Nat.and_two_pow_sub_one_eq_mod, Nat.shiftLeft_eq, trunc, ← Nat.mul_mod_mul_left, ← pow_succ',
    Nat.sub_add_cancel hw, pow_one, mul_comm]

end Sys2Proof.Machine
end

section
/-! ## The obligations of 41_transition_step.md on the feedback bit and the structure of the transition -/

namespace Sys2Proof.Machine

/-- Settles O15: the accumulator's bits by its definition, the feedback as its bit index 1 (R131, R132). -/
theorem feedbackIsAccumulatorBitOfWeightTwo : Obligations.FeedbackIsAccumulatorBitOfWeightTwo :=
  fun r taps => ⟨testBit_acc r taps, fb_eq_ite r taps⟩

/-- Settles O16: at bit index 1 a tap `t` of at least 1 reads the register's bit index `t`. -/
theorem feedbackClosedForm : Obligations.FeedbackClosedForm :=
  fun _ _ htaps => ⟨fb_eq_xorBits htaps, fb_xor_one htaps⟩

/-- Settles O18: the exclusive OR over a list does not depend on its order, and nothing else looks at the taps but
tests of membership. -/
theorem tapOrderIsUnobservable : Obligations.TapOrderIsUnobservable :=
  fun _ _ h => ⟨acc_perm h, next_perm h, simulate_perm h⟩

/-- Settles O19: the predecessors of a state of even parity are the two numbers whose upper bits are its low ones. -/
theorem transitionIsTwoToOne : Obligations.TransitionIsTwoToOne := by
  intro taps w hw htaps
  have htaps' := taps_in_register htaps
  refine ⟨fun r => next_xor_one fun t ht => (htaps' t ht).1, fun x hx => ⟨⟨?_, fun hpar => ?_⟩, fun hpar r hr => ?_⟩⟩
  · rintro ⟨r, hr, hnext⟩
    exact ((next_eq_iff hw htaps' hr hx).mp hnext).2
  · have hlt : 2 * trunc (w - 1) x < 2 ^ w := by
      have := trunc_lt (w - 1) x
      rw [show w = w - 1 + 1 by omega, pow_succ', Nat.add_sub_cancel]
      omega
    refine ⟨_, hlt, (next_eq_iff hw htaps' hlt hx).mpr ⟨?_, hpar⟩⟩
    rw [upper_eq_div, Nat.mul_div_cancel_left _ (by decide)]
  · rw [next_eq_iff hw htaps' hr hx, pred_mask_eq (by omega), upper_eq_div]
    simp only [hpar, and_true]
    omega

/-- Settles O20: in a register of `w` bits a tap at the width reads the bit above it, which is 0. -/
theorem tapAtTheWidthContributesNothing : Obligations.TapAtTheWidthContributesNothing := by
  intro r taps w hw hr
  rw [next, next, fb_filter_ne_width hw hr]

/-- Settles O21: the successor's upper bits are `g` of the upper bits, and `g` is one-to-one on finitely many
numbers. -/
theorem upperBitsAreAConventionalRegister : Obligations.UpperBitsAreAConventionalRegister := by
  intro taps w hw htaps
  have htaps' := taps_in_register htaps
  refine ⟨fun r hr => ?_, fun u hu => upperNext_lt hw hu, fun v hv => ?_⟩
  · have hupper := upper_next hw htaps' hr
    have hbit : (next r taps w).testBit 0 = r.testBit 1 := testBit_next_of_lt taps hw
    have htrail : (upper r).testBit 0 = r.testBit 1 := Nat.testBit_shiftRight r
    refine ⟨?_, hupper, hbit⟩
    rw [← hupper, htrail, ← hbit]
    exact (upper_shiftLeft_or _).symm
  · obtain ⟨-, hinj, hsurj⟩ := upperNext_bijOn hw fun t ht => (htaps t ht).1
    obtain ⟨u, hu, huv⟩ := hsurj hv
    exact ⟨u, hu, huv, fun u' hu' h => hinj hu' hu (h.trans huv.symm)⟩

end Sys2Proof.Machine
end

/-! # Proofs: 42_run_semantics.md, which runs close, how long they are, and how many there are -/

section
/-! ## The two outcomes of a run with valid operands (42_run_semantics.md R160) -/

namespace Sys2Proof.Machine

variable {wmax seed w L : Nat} {taps : List Nat}

/-- The seed recurs at `L`, and at no earlier index of at least 1. -/
def FirstRecurrence (seed : Nat) (taps : List Nat) (w L : Nat) : Prop :=
  1 ≤ L ∧ seqAt seed taps w L = seed ∧ ∀ j, 1 ≤ j → j < L → seqAt seed taps w j ≠ seed

theorem exists_firstRecurrence {k : Nat} (hk : 1 ≤ k) (hback : seqAt seed taps w k = seed) :
    ∃ L, L ≤ k ∧ FirstRecurrence seed taps w L := by
  have hex : ∃ j, 1 ≤ j ∧ seqAt seed taps w j = seed := ⟨k, hk, hback⟩
  obtain ⟨h1, hL⟩ := Nat.find_spec hex
  exact ⟨Nat.find hex, Nat.find_min' hex ⟨hk, hback⟩, h1, hL, fun j hj hlt h => Nat.find_min hex hlt ⟨hj, h⟩⟩

/-- Recording one more state of the sequence. -/
theorem map_seqAt_range_succ (seed : Nat) (taps : List Nat) (w k : Nat) :
    (List.range (k + 1)).map (seqAt seed taps w) ++ [seqAt seed taps w (k + 1)] =
      (List.range (k + 1 + 1)).map (seqAt seed taps w) := by
  rw [List.range_succ (n := k + 1), List.map_append, List.map_singleton]

/-- A loop that has not come to the first recurrence yet, and whose fuel and ceiling reach it, closes there. -/
theorem simulateLoop_of_firstRecurrence (hL : FirstRecurrence seed taps w L) (hceil : L ≤ 2 ^ w - 1) {fuel k : Nat}
    (hk : k < L) (hfuel : L ≤ k + fuel) :
    simulateLoop seed taps w fuel (seqAt seed taps w k) k ((List.range (k + 1)).map (seqAt seed taps w)) =
      .closed ((List.range (L + 1)).map (seqAt seed taps w)) L := by
  obtain ⟨-, hback, hfirst⟩ := id hL
  induction fuel generalizing k with
  | zero => omega
  | succ fuel ih =>
    simp only [simulateLoop, ← seqAt_succ, map_seqAt_range_succ]
    obtain rfl | hlt := Nat.eq_or_lt_of_le (Nat.succ_le_of_lt hk)
    · rw [if_pos hback]
    · rw [if_neg (hfirst (k + 1) (by omega) hlt), if_neg (by omega), ih hlt (by omega)]

theorem simulate_of_firstRecurrence (hv : validate wmax seed taps w = none) (hL : FirstRecurrence seed taps w L)
    (hceil : L ≤ 2 ^ w - 1) :
    simulate wmax seed taps w = .closed ((List.range (L + 1)).map (seqAt seed taps w)) L := by
  rw [simulate, hv]
  exact simulateLoop_of_firstRecurrence hL hceil (k := 0) hL.1 (by omega)

/-- A run with valid operands closes at the first recurrence of its seed, or it ends at the ceiling because the seed
does not recur up to there. -/
theorem simulate_cases (hv : validate wmax seed taps w = none) :
    (∃ L, FirstRecurrence seed taps w L ∧ L ≤ 2 ^ w - 1 ∧
      simulate wmax seed taps w = .closed ((List.range (L + 1)).map (seqAt seed taps w)) L) ∨
    ((∀ j, 1 ≤ j → j ≤ 2 ^ w - 1 → seqAt seed taps w j ≠ seed) ∧
      simulate wmax seed taps w = .noClosure ((List.range (2 ^ w)).map (seqAt seed taps w)) (2 ^ w - 1)) := by
  by_cases h : ∃ k, 1 ≤ k ∧ k ≤ 2 ^ w - 1 ∧ seqAt seed taps w k = seed
  · obtain ⟨k, hk, hceil, hback⟩ := h
    obtain ⟨L, hLk, hL⟩ := exists_firstRecurrence hk hback
    exact .inl ⟨L, hL, hLk.trans hceil, simulate_of_firstRecurrence hv hL (hLk.trans hceil)⟩
  · have hne : ∀ j, 1 ≤ j → j ≤ 2 ^ w - 1 → seqAt seed taps w j ≠ seed := fun j hj hle hback => h ⟨j, hj, hle, hback⟩
    exact .inr ⟨hne, simulate_of_no_recurrence hv hne⟩

theorem simulate_of_refused {e : ErrorCause} (hv : validate wmax seed taps w = some e) :
    simulate wmax seed taps w = .error e := by
  rw [simulate, hv]

/-- Only valid operands give something else than an error. -/
theorem validate_eq_none_of_simulate (h : ∀ e, simulate wmax seed taps w ≠ .error e) :
    validate wmax seed taps w = none := by
  cases hv : validate wmax seed taps w with
  | none => rfl
  | some e => exact absurd (simulate_of_refused hv) (h e)

end Sys2Proof.Machine
end

section
/-! ## Closing runs and the upper bits (42_run_semantics.md R167) -/

namespace Sys2Proof.Machine

variable {seed w : Nat} {taps : List Nat}

/-- The upper bits of the sequence are the iterates of `g`. -/
theorem upper_seqAt (hw : 2 ≤ w) (htaps : ∀ t ∈ taps, 2 ≤ t ∧ t ≤ w) (hseed : seed < 2 ^ w) (k : Nat) :
    upper (seqAt seed taps w k) = (fun u => upperNext u taps w)^[k] (upper seed) := by
  induction k with
  | zero => rfl
  | succ k ih =>
    rw [seqAt_succ, upper_next hw (taps_in_register htaps) (seqAt_lt (by omega) hseed k), ih,
      Function.iterate_succ_apply']

/-- Every state but the first is the successor of one, and so of even parity. -/
theorem closureParity_seqAt_succ (hw : 2 ≤ w) (htaps : ∀ t ∈ taps, 2 ≤ t ∧ t ≤ w) (hseed : seed < 2 ^ w) (k : Nat) :
    closureParity (seqAt seed taps w (k + 1)) taps w = false :=
  have hlt := seqAt_lt (taps := taps) (by omega : 1 ≤ w) hseed
  ((next_eq_iff hw (taps_in_register htaps) (hlt k) (hlt (k + 1))).mp (seqAt_succ seed taps w k).symm).2

/-- A seed of even parity recurs exactly when its upper bits do, since the parity gives bit index 0. -/
theorem seqAt_eq_seed_iff (hw : 2 ≤ w) (htaps : ∀ t ∈ taps, 2 ≤ t ∧ t ≤ w) (hseed : seed < 2 ^ w)
    (hpar : closureParity seed taps w = false) {k : Nat} (hk : 1 ≤ k) :
    seqAt seed taps w k = seed ↔ (fun u => upperNext u taps w)^[k] (upper seed) = upper seed := by
  rw [← upper_seqAt hw htaps hseed]
  refine ⟨congrArg upper, eq_of_upper_eq hw (fun t ht => (htaps t ht).1) ?_ hpar⟩
  obtain ⟨j, rfl⟩ := Nat.exists_eq_add_of_le' hk
  exact closureParity_seqAt_succ hw htaps hseed j

theorem closureParity_of_recurrence (hw : 2 ≤ w) (htaps : ∀ t ∈ taps, 2 ≤ t ∧ t ≤ w) (hseed : seed < 2 ^ w) {k : Nat}
    (hk : 1 ≤ k) (hback : seqAt seed taps w k = seed) : closureParity seed taps w = false := by
  obtain ⟨j, rfl⟩ := Nat.exists_eq_add_of_le' hk
  exact hback ▸ closureParity_seqAt_succ hw htaps hseed j

/-- Parity is even in state 0, which is its own successor. -/
theorem closureParity_zero (hw : 2 ≤ w) (htaps : ∀ t ∈ taps, 2 ≤ t ∧ t ≤ w) : closureParity 0 taps w = false :=
  have hpos := Nat.two_pow_pos w
  ((next_eq_iff hw (taps_in_register htaps) hpos hpos).mp (next_zero taps w)).2

/-- A legal seed of even parity has an upper bit set: the seed 1 has odd parity. -/
theorem upper_ne_zero (hw : 2 ≤ w) (htaps : ∀ t ∈ taps, 2 ≤ t ∧ t ≤ w) (hpos : 1 ≤ seed)
    (hpar : closureParity seed taps w = false) : upper seed ≠ 0 := by
  intro h
  rw [upper_eq_div] at h
  obtain rfl : seed = 2 * 0 + 1 := by omega
  rw [closureParity_two_mul_add_one hw fun t ht => (htaps t ht).1, closureParity_zero hw htaps] at hpar
  cases hpar

theorem upperNext_zero (hw : 2 ≤ w) (htaps : ∀ t ∈ taps, 2 ≤ t ∧ t ≤ w) : upperNext 0 taps w = 0 :=
  calc upperNext 0 taps w = upper (next 0 taps w) := (upper_next hw (taps_in_register htaps) (Nat.two_pow_pos w)).symm
    _ = 0 := by rw [next_zero]; rfl

/-- The numbers `g` runs through from one that is not 0: as `g` is one-to-one, it never comes to its fixed point 0. -/
theorem iterate_upperNext_mem (hw : 2 ≤ w) (htaps : ∀ t ∈ taps, 2 ≤ t ∧ t ≤ w) {u : Nat} (h0 : u ≠ 0)
    (hu : u < 2 ^ (w - 1)) (k : Nat) : (fun u => upperNext u taps w)^[k] u ∈ Finset.Ico 1 (2 ^ (w - 1)) := by
  induction k with
  | zero => exact Finset.mem_Ico.mpr ⟨Nat.pos_of_ne_zero h0, hu⟩
  | succ k ih =>
    obtain ⟨hpos, hlt⟩ := Finset.mem_Ico.mp ih
    rw [Function.iterate_succ_apply']
    refine Finset.mem_Ico.mpr ⟨Nat.pos_of_ne_zero fun h => ?_, upperNext_lt hw hlt⟩
    have hback := upperNext_injOn hw (fun t ht => (htaps t ht).1) hlt (Nat.two_pow_pos _)
      (h.trans (upperNext_zero hw htaps).symm)
    omega

/-- Under `g` a number that is not 0 returns within `2^(w-1) - 1` applications. -/
theorem exists_iterate_upperNext_eq (hw : 2 ≤ w) (htaps : ∀ t ∈ taps, 2 ≤ t ∧ t ≤ w) {u : Nat} (h0 : u ≠ 0)
    (hu : u < 2 ^ (w - 1)) : ∃ k, 1 ≤ k ∧ k ≤ 2 ^ (w - 1) - 1 ∧ (fun u => upperNext u taps w)^[k] u = u := by
  have hbij := upperNext_bijOn hw fun t ht => (htaps t ht).1
  have hcard : (Finset.Ico 1 (2 ^ (w - 1))).card < (Finset.range (2 ^ (w - 1))).card := by
    have := Nat.two_pow_pos (w - 1)
    rw [Nat.card_Ico, Finset.card_range]
    omega
  obtain ⟨i, hi, j, hj, hne, heq⟩ := Finset.exists_ne_map_eq_of_card_lt_of_maps_to hcard
    fun k _ => iterate_upperNext_mem hw htaps h0 hu k
  have hreturn : ∀ {i j : Nat}, i < j → (fun u => upperNext u taps w)^[i] u = (fun u => upperNext u taps w)^[j] u →
      (fun u => upperNext u taps w)^[j - i] u = u := fun {i j} hlt heq => by
    rw [← Nat.add_sub_cancel' hlt.le, Function.iterate_add_apply] at heq
    have hmem : (fun u => upperNext u taps w)^[j - i] u < 2 ^ (w - 1) :=
      (Finset.mem_Ico.mp (iterate_upperNext_mem hw htaps h0 hu (j - i))).2
    exact (hbij.injOn.iterate hbij.mapsTo i hu hmem heq).symm
  rw [Finset.mem_range] at hi hj
  obtain hlt | hlt := Nat.lt_or_gt_of_ne hne
  · exact ⟨j - i, by omega, by omega, hreturn hlt heq⟩
  · exact ⟨i - j, by omega, by omega, hreturn hlt heq.symm⟩

/-- A legal seed of even parity recurs within `2^(w-1) - 1` transitions. -/
theorem exists_recurrence (hw : 2 ≤ w) (htaps : ∀ t ∈ taps, 2 ≤ t ∧ t ≤ w) (hpos : 1 ≤ seed) (hseed : seed < 2 ^ w)
    (hpar : closureParity seed taps w = false) : ∃ k, 1 ≤ k ∧ k ≤ 2 ^ (w - 1) - 1 ∧ seqAt seed taps w k = seed := by
  obtain ⟨k, hk, hle, hback⟩ := exists_iterate_upperNext_eq hw htaps (upper_ne_zero hw htaps hpos hpar)
    (upper_lt (by omega) hseed)
  exact ⟨k, hk, hle, (seqAt_eq_seed_iff hw htaps hseed hpar hk).mpr hback⟩

/-- The closure criterion. -/
theorem recurs_iff_closureParity (hw : 2 ≤ w) (htaps : ∀ t ∈ taps, 2 ≤ t ∧ t ≤ w) (hpos : 1 ≤ seed)
    (hseed : seed < 2 ^ w) :
    (∃ k, 1 ≤ k ∧ seqAt seed taps w k = seed) ↔ closureParity seed taps w = false := by
  constructor
  · rintro ⟨k, hk, hback⟩
    exact closureParity_of_recurrence hw htaps hseed hk hback
  · intro hpar
    obtain ⟨k, hk, -, hback⟩ := exists_recurrence hw htaps hpos hseed hpar
    exact ⟨k, hk, hback⟩

/-- The bound on a cycle length lies below the ceiling. -/
theorem pow_pred_sub_one_le (w : Nat) : 2 ^ (w - 1) - 1 ≤ 2 ^ w - 1 :=
  Nat.sub_le_sub_right (Nat.pow_le_pow_right (by decide) (Nat.sub_le w 1)) 1

theorem isClosed_simulate_iff {wmax : Nat} (hw : 2 ≤ w) (hv : validate wmax seed taps w = none) :
    (simulate wmax seed taps w).isClosed = true ↔ closureParity seed taps w = false := by
  obtain ⟨-, ⟨hpos, hseed⟩, htaps⟩ := validate_eq_none.mp hv
  obtain ⟨L, ⟨hL, hback, -⟩, -, hsim⟩ | ⟨hne, hsim⟩ := simulate_cases hv
  · rw [hsim]
    exact iff_of_true rfl (closureParity_of_recurrence hw htaps hseed hL hback)
  · rw [hsim]
    refine iff_of_false Bool.false_ne_true fun hpar => ?_
    obtain ⟨k, hk, hle, hback⟩ := exists_recurrence hw htaps hpos hseed hpar
    exact hne k hk (hle.trans (pow_pred_sub_one_le w)) hback

/-- A seed that recurs does so within `2^(w-1) - 1` transitions; in width 1 none recurs. -/
theorem recurs_early {wmax : Nat} (hv : validate wmax seed taps w = none) {k : Nat} (hk : 1 ≤ k)
    (hback : seqAt seed taps w k = seed) :
    2 ≤ w ∧ ∃ j, 1 ≤ j ∧ j ≤ 2 ^ (w - 1) - 1 ∧ seqAt seed taps w j = seed := by
  obtain ⟨⟨hw, hmax⟩, ⟨hpos, hseed⟩, htaps⟩ := validate_eq_none.mp hv
  obtain rfl | hw2 : w = 1 ∨ 2 ≤ w := by omega
  · obtain ⟨rfl, rfl⟩ := (validate_width_one hmax).mp hv
    exact absurd hback (seqAt_ne_seed_of_reaches_zero (by decide) ⟨1, by decide⟩ hk)
  · exact ⟨hw2, exists_recurrence hw2 htaps hpos hseed (closureParity_of_recurrence hw2 htaps hseed hk hback)⟩

end Sys2Proof.Machine
end

section
/-! ## Counting the seeds that close -/

namespace Sys2Proof.Machine

/-- A property that holds of neither 0 nor 1, and of exactly one number of each further pair `2u`, `2u + 1`. -/
theorem length_filter_range_pairs {p : Nat → Bool} (h0 : p 0 = false) (h1 : p 1 = false) (m : Nat)
    (hpair : ∀ u, 1 ≤ u → u ≤ m → p (2 * u + 1) = !p (2 * u)) :
    ((List.range (2 * (m + 1))).filter p).length = m := by
  induction m with
  | zero => simp [List.range_succ, h0, h1]
  | succ m ih =>
    have hlast := hpair (m + 1) (by omega) le_rfl
    rw [show 2 * (m + 1 + 1) = 2 * (m + 1) + 1 + 1 by omega, List.range_succ, List.range_succ]
    simp only [List.filter_append, List.length_append, ih fun u hu hle => hpair u hu (by omega)]
    cases hp : p (2 * (m + 1)) <;> simp [hp, hlast]

end Sys2Proof.Machine
end

section
/-! ## The obligations of 42_run_semantics.md on the sequence and on closure -/

namespace Sys2Proof.Machine

/-- Settles O44: the successor of a state of the width is one. -/
theorem theSequenceStaysInTheRegister : Obligations.TheSequenceStaysInTheRegister := by
  intro wmax seed taps w hv k
  obtain ⟨⟨hw, -⟩, ⟨-, hseed⟩, -⟩ := validate_eq_none.mp hv
  exact seqAt_lt hw hseed k

/-- Settles O47: a seed recurs exactly when it has even parity and its upper bits recur, which under a one-to-one `g`
they always do (R167). -/
theorem whichRunsClose : Obligations.WhichRunsClose := by
  intro wmax seed taps w hw hv
  obtain ⟨-, ⟨hpos, hseed⟩, htaps⟩ := validate_eq_none.mp hv
  refine ⟨recurs_iff_closureParity hw htaps hpos hseed, isClosed_simulate_iff hw hv, fun traj L hsim => ?_⟩
  obtain ⟨⟨hL, hback, hfirst⟩, -⟩ := simulate_closed hsim
  have hpar := closureParity_of_recurrence hw htaps hseed hL hback
  refine ⟨(seqAt_eq_seed_iff hw htaps hseed hpar hL).mp hback, fun k hk hlt h => ?_⟩
  exact hfirst k hk hlt ((seqAt_eq_seed_iff hw htaps hseed hpar hk).mpr h)

/-- Settles O48: the bound is that on the period of the upper bits, and it lies below the ceiling; a run through 0 would
stay there. -/
theorem theCeilingCutsNoClosingRunShort : Obligations.TheCeilingCutsNoClosingRunShort := by
  refine fun wmax seed taps w => ⟨fun traj L hsim => ?_, fun pref K hsim => ?_⟩
  · have hv : validate wmax seed taps w = none := validate_eq_none_of_simulate (by simp [hsim])
    obtain ⟨-, ⟨hpos, -⟩, -⟩ := validate_eq_none.mp hv
    obtain ⟨⟨hL, hback, hfirst⟩, rfl⟩ := simulate_closed hsim
    obtain ⟨hw, j, hj, hle, hback'⟩ := recurs_early hv hL hback
    refine ⟨hw, hL, (not_lt.mp fun hlt => hfirst j hj hlt hback').trans hle, fun h0 => ?_⟩
    obtain ⟨i, -, hi⟩ := List.mem_map.mp h0
    exact seqAt_ne_seed_of_reaches_zero (by omega) ⟨i, hi⟩ hL hback
  · have hv : validate wmax seed taps w = none := validate_eq_none_of_simulate (by simp [hsim])
    obtain ⟨L, -, -, hsim'⟩ | ⟨hne, hsim'⟩ := simulate_cases hv
    · rw [hsim'] at hsim
      cases hsim
    · obtain ⟨rfl, rfl⟩ := RunResult.noClosure.inj (hsim'.symm.trans hsim)
      refine ⟨rfl, by simp, fun k hk hback => ?_⟩
      obtain ⟨-, j, hj, hle, hback'⟩ := recurs_early hv hk hback
      exact hne j hj (hle.trans (pow_pred_sub_one_le w)) hback'

/-- Settles O49: of the two seeds with given upper bits exactly one has even parity, but for 0 and 1, of which 0 is no
seed and 1 has odd parity. -/
theorem halfOfTheSeedsClose : Obligations.HalfOfTheSeedsClose := by
  intro wmax taps w hw hmax htaps
  have hpow : 2 ^ w = 2 * 2 ^ (w - 1) := by rw [← pow_succ', Nat.sub_add_cancel (by omega)]
  have hpos := Nat.two_pow_pos (w - 1)
  have hparity : ∀ seed, 1 ≤ seed → seed < 2 ^ w →
      (simulate wmax seed taps w).isClosed = !closureParity seed taps w := fun seed h1 hlt => by
    have hv := validate_eq_none.mpr ⟨⟨by omega, hmax⟩, ⟨h1, hlt⟩, htaps⟩
    rw [Bool.eq_iff_iff, isClosed_simulate_iff hw hv, Bool.not_eq_true']
  have hflip := closureParity_two_mul_add_one hw fun t ht => (htaps t ht).1
  rw [show 2 ^ w = 2 * (2 ^ (w - 1) - 1 + 1) by omega]
  refine length_filter_range_pairs ?_ ?_ _ fun u hu hle => ?_
  · rw [simulate_of_refused (e := .invalidSeed) (by rw [validate, if_neg (by omega), if_pos (.inl rfl)])]
    rfl
  · rw [hparity 1 le_rfl (by omega), hflip 0, closureParity_zero hw htaps]
    rfl
  · rw [hparity _ (by omega) (by omega), hparity _ (by omega) (by omega), hflip]

end Sys2Proof.Machine
end

/-! # Proofs: 42_run_semantics.md section 1 and 30_encoding.md section 5, the engine against `simulate` -/

section
/-! ## The states of a run -/

namespace Sys2Proof.Machine

variable {s t : State}

theorem runFor_succ_last {k : Nat} (h : runFor k s = .next t) : runFor (k + 1) s = step t := by
  induction k generalizing s with
  | zero =>
    obtain rfl := Host.Outcome.next.inj h
    obtain ⟨u, hu⟩ := step_answers s
    rw [runFor_succ 0 hu, runFor_zero, hu]
  | succ k ih =>
    obtain ⟨u, hu⟩ := step_answers s
    rw [runFor_succ k hu] at h
    rw [runFor_succ (k + 1) hu, ih h]

/-- The state of a run after `k` transitions: `taps` is the mask, and the host goes on with `l`. -/
def runState (c : Config) (seed taps width : Nat) (l : List Inputs) (k : Nat) : State :=
  { cfg := c, inputs := l, phase := .run, cause := .none, width := width, seed := seed, taps := taps,
    reg := seqAt seed (decodeTaps c.wmax taps) width k, count := k, emit := true,
    traj := (List.range (k + 1)).map (seqAt seed (decodeTaps c.wmax taps) width) }

/-- The state in which a run ends after `k` transitions, with the flags of its end. -/
def endState (c : Config) (seed taps width : Nat) (p : Phase) (e : Cause) (l : List Inputs) (k : Nat) : State :=
  { runState c seed taps width l k with phase := p, cause := e }

/-- A run of `K` STEPs: each but the last goes on, and the last leaves `RUN` with the given flags. -/
structure RunEnds (c : Config) (seed taps width : Nat) (p : Phase) (e : Cause) (K : Nat) : Prop where
  pos : 1 ≤ K
  not_run : p ≠ .run
  goes_on : ∀ l k, k + 1 < K →
    execStep (runState c seed taps width l k) = .next (runState c seed taps width l (k + 1))
  ends : ∀ l k, k + 1 = K →
    execStep (runState c seed taps width l k) = .next (endState c seed taps width p e l (k + 1))

variable {c : Config} {seed taps width K : Nat}

/-- A STEP of a run with valid operands computes the next state of the sequence. -/
theorem stepValue_runState (hv : validate c.wmax seed (decodeTaps c.wmax taps) width = none) (l : List Inputs)
    (k : Nat) :
    stepValue (runState c seed taps width l k) = seqAt seed (decodeTaps c.wmax taps) width (k + 1) := by
  obtain ⟨⟨hw, hmax⟩, ⟨-, hseed⟩, -⟩ := validate_eq_none.mp hv
  exact stepValue_eq_next (s := runState c seed taps width l k) hw hmax (seqAt_lt hw hseed k)

theorem stepWritten_runState (hv : validate c.wmax seed (decodeTaps c.wmax taps) width = none) (l : List Inputs)
    {k : Nat} (hk : k < 2 ^ width - 1) :
    stepWritten (runState c seed taps width l k) = runState c seed taps width l (k + 1) := by
  obtain ⟨⟨-, hmax⟩, -⟩ := validate_eq_none.mp hv
  rw [stepWritten_of_count_lt (s := runState c seed taps width l k) hmax hk, stepValue_runState hv, runState, runState,
    map_seqAt_range_succ]

/-- Where the seed does not come back and the ceiling is not reached, the run goes on. -/
theorem execStep_runState (hv : validate c.wmax seed (decodeTaps c.wmax taps) width = none) (l : List Inputs)
    {k : Nat} (hk : k + 1 < 2 ^ width - 1) (hne : seqAt seed (decodeTaps c.wmax taps) width (k + 1) ≠ seed) :
    execStep (runState c seed taps width l k) = .next (runState c seed taps width l (k + 1)) := by
  rw [← stepValue_runState hv l] at hne
  rw [← stepWritten_runState hv l (by omega)]
  exact exec_step_of_continuing hne hk.ne

/-- A run whose seed recurs first at `L`, no later than the ceiling, ends there in `DONE`. -/
theorem runEnds_of_firstRecurrence (hv : validate c.wmax seed (decodeTaps c.wmax taps) width = none) {L : Nat}
    (hL : FirstRecurrence seed (decodeTaps c.wmax taps) width L) (hceil : L ≤ 2 ^ width - 1) :
    RunEnds c seed taps width .done .none L := by
  obtain ⟨hpos, hback, hfirst⟩ := hL
  refine ⟨hpos, by decide, fun l k hk => execStep_runState hv l (by omega) (hfirst _ (by omega) hk), fun l k hk => ?_⟩
  have hval := stepValue_runState hv l k
  rw [hk, hback] at hval
  exact (exec_step_of_closure hval).trans (by rw [stepWritten_runState hv l (by omega)]; rfl)

/-- A run whose seed does not recur up to the ceiling ends there in `ERR`. -/
theorem runEnds_of_no_recurrence (hv : validate c.wmax seed (decodeTaps c.wmax taps) width = none)
    (hne : ∀ j, 1 ≤ j → j ≤ 2 ^ width - 1 → seqAt seed (decodeTaps c.wmax taps) width j ≠ seed) :
    RunEnds c seed taps width .err .noClosure (2 ^ width - 1) := by
  obtain ⟨⟨hw, -⟩, -⟩ := validate_eq_none.mp hv
  have hpow := Nat.one_lt_two_pow (n := width) (by omega)
  refine ⟨by omega, by decide, fun l k hk => execStep_runState hv l hk (hne _ (by omega) hk.le), fun l k hk => ?_⟩
  have hval : stepValue (runState c seed taps width l k) ≠ seed := by
    rw [stepValue_runState hv]
    exact hne _ (by omega) hk.le
  exact (exec_step_of_ceiling hval hk).trans (by rw [stepWritten_runState hv l (by omega)]; rfl)

end Sys2Proof.Machine
end

section
/-! ## A run in the engine's cycles (42_run_semantics.md section 3) -/

namespace Sys2Proof.Machine

variable {c : Config} {seed taps width K : Nat} {p : Phase} {e : Cause} {l : List Inputs}

/-- Without `rst` a cycle of a run is a STEP, before the same later inputs. -/
theorem step_runState (hl : ∀ x ∈ l, x.rst = false) (k : Nat) :
    step (runState c seed taps width l k) = execStep (runState c seed taps width l.tail k) :=
  step_of_run rfl (NoReset.currentInputs (s := runState c seed taps width l k) hl)

/-- Before its end the run is in the state of as many transitions as cycles have passed. -/
theorem RunEnds.runFor_of_lt (h : RunEnds c seed taps width p e K) (hl : ∀ x ∈ l, x.rst = false) {k : Nat}
    (hk : k < K) :
    runFor k (runState c seed taps width l 0) = .next (runState c seed taps width (l.drop k) k) := by
  induction k with
  | zero => rfl
  | succ k ih =>
    have hdrop : ∀ x ∈ l.drop k, x.rst = false := fun x hx => hl x (List.mem_of_mem_drop hx)
    rw [runFor_succ_last (ih (by omega)), step_runState hdrop, List.tail_drop, h.goes_on _ _ hk]

/-- After as many cycles as it has STEPs the run has ended. -/
theorem RunEnds.runFor_eq (h : RunEnds c seed taps width p e K) (hl : ∀ x ∈ l, x.rst = false) :
    runFor K (runState c seed taps width l 0) = .next (endState c seed taps width p e (l.drop K) K) := by
  obtain ⟨k, rfl⟩ := Nat.exists_eq_add_of_le' h.pos
  have hdrop : ∀ x ∈ l.drop k, x.rst = false := fun x hx => hl x (List.mem_of_mem_drop hx)
  rw [runFor_succ_last (h.runFor_of_lt hl k.lt_succ_self), step_runState hdrop, List.tail_drop, h.ends _ _ rfl]

/-- A wait from the `i`-th state of a run sees the later ones and the end. -/
theorem RunEnds.untilReady_eq (h : RunEnds c seed taps width p e K) (d : Nat) {i bound : Nat} (hi : i + (d + 1) = K)
    (hb : d + 1 ≤ bound) :
    untilReady bound (runState c seed taps width l i) =
      (List.range' i (d + 1)).map (runState c seed taps width l) ++ [endState c seed taps width p e l K] := by
  obtain ⟨bound, rfl⟩ := Nat.exists_eq_add_of_le' (Nat.one_le_of_lt hb)
  induction d generalizing i bound with
  | zero =>
    have hready : (ports (endState c seed taps width p e l K)).ready = true := ports_ready_eq_true.mpr h.not_run
    obtain rfl : i + 1 = K := hi
    rw [untilReady_of_run rfl (h.ends l i rfl), untilReady_of_ready hready]
    rfl
  | succ d ih =>
    obtain ⟨bound, rfl⟩ := Nat.exists_eq_add_of_le' (by omega : 1 ≤ bound)
    rw [untilReady_of_run rfl (h.goes_on l i (by omega)), ih (i := i + 1) (by omega) bound (by omega), List.range'_succ]
    rfl

end Sys2Proof.Machine
end


section
/-! ## `WAIT` (30_encoding.md R84) -/

namespace Sys2Proof.Machine

variable {s t : State}

theorem length_idleFor (n : Nat) : (idleFor n).length = n := List.length_replicate

theorem eq_idle_of_mem_idleFor {n : Nat} {x : Inputs} (h : x ∈ idleFor n) : x = Inputs.idle :=
  List.eq_of_mem_replicate h

/-- A wait sees cycles of a run and then one more, to which its requests lead from the state it begins in; what the
host drives later is still to come. -/
theorem untilReady_eq_append (bound : Nat) (s : State) :
    ∃ init u, untilReady bound s = init ++ [u] ∧ (∀ v ∈ init, v.phase = .run) ∧ u.inputs = s.inputs ∧
      runFor init.length { s with inputs := idleFor init.length ++ s.inputs } = .next u := by
  induction bound generalizing s with
  | zero => exact ⟨[], s, rfl, by simp, rfl, rfl⟩
  | succ bound ih =>
    by_cases hp : s.phase = .run
    · obtain ⟨init, u, hwait, hrun, hin, hlead⟩ :=
        ih { stepWritten s with phase := stepPhase s, cause := stepCause s }
      refine ⟨s :: init, u, ?_, List.forall_mem_cons.mpr ⟨hp, hrun⟩, hin, ?_⟩
      · rw [untilReady_of_run hp (execStep_eq_exit s), hwait, List.cons_append]
      · refine (runFor_succ _ ?_).trans hlead
        exact (step_cons s Inputs.idle _).trans (by rw [if_neg (by decide), if_pos hp, execStep_eq_exit]; rfl)
    · exact ⟨[], s, untilReady_of_ready (ports_ready_eq_true.mpr hp) _, by simp, rfl, rfl⟩

/-- From a state of the invariants a wait that may take as many cycles as the run has transitions left ends ready. -/
theorem getLast_untilReady_ready (bound : Nat) (h : Inv s)
    (hb : s.phase = .run → 2 ^ s.width - 1 ≤ s.count + bound) :
    ∃ u, (untilReady bound s).getLast? = some u ∧ u.phase ≠ .run := by
  induction bound generalizing s with
  | zero =>
    refine ⟨s, rfl, fun hp => ?_⟩
    obtain ⟨⟨-, hc, -⟩, -⟩ := h.runningRecord hp
    have := hb hp
    omega
  | succ bound ih =>
    by_cases hp : s.phase = .run
    · obtain ⟨t, ht, hinv, -, hwidth, hcount, -⟩ := execStep_of_inv h hp
      have hb' := hb hp
      obtain ⟨u, hu, hready⟩ := ih hinv fun _ => by rw [hwidth, hcount]; omega
      refine ⟨u, ?_, hready⟩
      rw [untilReady_of_run hp ht, List.getLast?_cons, hu]
      rfl
    · rw [untilReady_of_ready (ports_ready_eq_true.mpr hp)]
      exact ⟨s, rfl, hp⟩

end Sys2Proof.Machine
end

section
/-! ## `SIMULATE` (30_encoding.md R84) -/

namespace Sys2Proof.Machine

variable {s t : State} {c : Config} {seed taps width K : Nat} {p : Phase} {e : Cause} {l : List Inputs}

/-- `SIMULATE` is its START's cycle and a wait from the state that it leaves. -/
theorem simulatePseudo_of_drive {taps : List Nat} (h : drive (Inputs.startWith seed taps width) s = .next t) :
    simulatePseudo seed taps width s = readingOf (wait t) ∧
      simulateRequests seed taps width s = Inputs.startWith seed taps width :: waitRequests t := by
  rw [simulatePseudo, simulateRequests, h]
  exact ⟨rfl, rfl⟩

/-- A START that leaves the engine outside a run is read in the next cycle, with nothing more asked for. -/
theorem simulatePseudo_of_not_run {taps : List Nat} (h : drive (Inputs.startWith seed taps width) s = .next t)
    (hp : t.phase ≠ .run) :
    simulatePseudo seed taps width s = some ⟨t.phase.code, t.cause.code, t.count, shownElement t⟩ ∧
      simulateRequests seed taps width s = [Inputs.startWith seed taps width] := by
  obtain ⟨hread, hreq⟩ := simulatePseudo_of_drive h
  have hready := ports_ready_eq_true.mpr hp
  have hwait : wait t = [t] := untilReady_of_ready hready _
  rw [hread, hreq, waitRequests, hwait, readingOf_of_last rfl hready, List.flatMap_singleton]
  exact ⟨rfl, rfl⟩

/-- A wait from the START on sees every state of the run and its end. -/
theorem RunEnds.wait_eq (h : RunEnds c seed taps width p e K) (hK : K ≤ 2 ^ width) :
    wait (runState c seed taps width l 0) =
      (List.range K).map (runState c seed taps width l) ++ [endState c seed taps width p e l K] := by
  obtain ⟨d, rfl⟩ := Nat.exists_eq_add_of_le' h.pos
  rw [List.range_eq_range']
  exact h.untilReady_eq d (Nat.zero_add _) hK

/-- What the host collects over a run is the sequence up to its end. -/
theorem flatMap_shownElement_run (c : Config) (seed taps width K : Nat) (p : Phase) (e : Cause) (l : List Inputs) :
    ((List.range K).map (runState c seed taps width l) ++ [endState c seed taps width p e l K]).flatMap shownElement =
      (List.range (K + 1)).map (seqAt seed (decodeTaps c.wmax taps) width) := by
  rw [List.flatMap_append, List.flatMap_map, List.range_succ, List.map_append]
  exact congrArg (· ++ _) List.map_eq_flatMap.symm

/-- What the host reads at the end of a run that its START has begun, and what it has asked for on the way. -/
theorem RunEnds.reading (h : RunEnds c seed taps width p e K) (hK : K ≤ 2 ^ width) :
    readingOf (wait (runState c seed taps width l 0)) =
        some ⟨p.code, e.code, K, (List.range (K + 1)).map (seqAt seed (decodeTaps c.wmax taps) width)⟩ ∧
      waitRequests (runState c seed taps width l 0) = idleFor K := by
  have hready : (ports (endState c seed taps width p e l K)).ready = true := ports_ready_eq_true.mpr h.not_run
  constructor
  · rw [h.wait_eq hK, readingOf_of_last List.getLast?_concat hready, flatMap_shownElement_run]
    rfl
  · rw [waitRequests, h.wait_eq hK]
    simp

end Sys2Proof.Machine
end

section
/-! ## The obligations on the correspondence of the levels and on the pseudo-operations -/

namespace Sys2Proof.Machine

/-- Settles O43: a START with valid operands leaves the run's first state; the run ends at the first recurrence of the
seed or at the ceiling, in either case where `simulate` ends (R160). -/
theorem theEngineCarriesOutSimulate : Obligations.TheEngineCarriesOutSimulate := by
  intro s seed taps width hwf hr
  cases hv : validate s.cfg.wmax seed (decodeTaps s.cfg.wmax taps) width with
  | some e =>
    rw [simulate_of_refused hv]
    exact ⟨_, exec_start_of_refused hwf hv, rfl, rfl, rfl, rfl, rfl⟩
  | none =>
    refine ⟨runState s.cfg seed taps width s.inputs 0, exec_start_of_valid hwf hv, ?_⟩
    obtain ⟨L, hL, hceil, hsim⟩ | ⟨hne, hsim⟩ := simulate_cases hv
    · have hrun := runEnds_of_firstRecurrence hv hL hceil
      rw [hsim]
      refine ⟨fun j hj => ⟨_, hrun.runFor_of_lt hr hj, rfl, rfl, rfl⟩, _, hrun.runFor_eq hr, rfl, rfl, rfl, rfl, ?_, rfl,
        rfl⟩
      obtain ⟨-, hback, -⟩ := hL
      exact hback
    · have hrun := runEnds_of_no_recurrence hv hne
      rw [hsim]
      refine ⟨rfl, fun j hj => ⟨_, hrun.runFor_of_lt hr hj, rfl, rfl, rfl⟩, _, hrun.runFor_eq hr, rfl, rfl, rfl, ?_, rfl,
        rfl⟩
      rw [← Nat.sub_add_cancel (Nat.two_pow_pos width)]
      rfl

/-- Settles O51: the cycles of a wait are STEPs of the run it begins in, which the invariants bound (60_exceptions.md
R199). -/
theorem waitEndsInTheFirstReadyCycle : Obligations.WaitEndsInTheFirstReadyCycle := by
  refine ⟨fun n => ⟨length_idleFor n, fun x hx => ?_⟩, fun s hinv => ?_⟩
  · rw [eq_idle_of_mem_idleFor hx]
    exact ⟨rfl, rfl⟩
  · obtain ⟨init, u, hwait, hrun, hin, hlead⟩ := untilReady_eq_append (2 ^ s.width) s
    obtain ⟨u', hlast, hready⟩ := getLast_untilReady_ready (2 ^ s.width) hinv fun _ =>
      (Nat.sub_le _ 1).trans (Nat.le_add_left _ _)
    have hreq : waitRequests s = idleFor init.length := by simp [waitRequests, wait, hwait]
    rw [hwait, List.getLast?_concat, Option.some.injEq] at hlast
    subst hlast
    rw [hreq, length_idleFor]
    refine ⟨untilReady_head _ s, fun v hv => ?_, fun x hx => ?_, u, ?_, ports_ready_eq_true.mpr hready, hin, hlead⟩
    · rw [wait, hwait, List.dropLast_concat] at hv
      exact ports_ready_eq_false.mpr (hrun v hv)
    · rw [eq_idle_of_mem_idleFor hx]
      rfl
    · rw [wait, hwait, List.getLast?_concat]

/-- Settles O52: the cycle of the START leaves a refusal, which is read at once, or the run's first state, from which
the wait sees the whole run. -/
theorem simulatePseudoOperationReadsSimulate : Obligations.SimulatePseudoOperationReadsSimulate := by
  intro s seed taps width hp hs hw hsorted hrange
  have henc := encodeTaps_lt hsorted hrange
  have hwf := wellFormed_start.mpr ⟨hs, henc, hw⟩
  have hdrive : drive (Inputs.startWith seed taps width) s = exec (.start seed (encodeTaps taps) width) s := by
    rw [drive_startWith hp, trunc_of_lt hs, trunc_of_lt henc, trunc_of_lt hw, exec_start]
  have hset : simulate s.cfg.wmax seed taps width =
      simulate s.cfg.wmax seed (decodeTaps s.cfg.wmax (encodeTaps taps)) width := by
    rw [decodeTaps_encodeTaps hsorted hrange]
  rw [hset]
  cases hv : validate s.cfg.wmax seed (decodeTaps s.cfg.wmax (encodeTaps taps)) width with
  | some e =>
    rw [simulate_of_refused hv]
    exact simulatePseudo_of_not_run (hdrive.trans (exec_start_of_refused hwf hv)) (by simp)
  | none =>
    obtain ⟨hread, hreq⟩ := simulatePseudo_of_drive (hdrive.trans (exec_start_of_valid hwf hv))
    obtain ⟨L, hL, hceil, hsim⟩ | ⟨hne, hsim⟩ := simulate_cases hv
    · obtain ⟨hread', hreq'⟩ := (runEnds_of_firstRecurrence hv hL hceil).reading (l := s.inputs)
        (hceil.trans (Nat.sub_le _ 1))
      rw [hsim]
      exact ⟨hread.trans hread', hreq.trans (congrArg _ hreq')⟩
    · obtain ⟨hread', hreq'⟩ := (runEnds_of_no_recurrence hv hne).reading (l := s.inputs) (Nat.sub_le _ 1)
      rw [Nat.sub_add_cancel (Nat.two_pow_pos width)] at hread'
      rw [hsim]
      exact ⟨hread.trans hread', hreq.trans (congrArg _ hreq')⟩

end Sys2Proof.Machine
end
